-- ==== Sys2Proof/Word.lean ====
section
/-! DEFINITION. The machine's words: bytes, key-register values, command words, and the key state. -/

namespace Sys2Proof

/-- `u8` (spec R6, R7; R4 BYTE_WIDTH): a password, ciphertext or plaintext byte. -/
abbrev Byte := BitVec 8

/-- `u32` (spec R7, R18; R4 KEY_WIDTH): the value of one key register. -/
abbrev Key := BitVec 32

/-- One 16-bit command word (spec R48; R4 CMD_WIDTH). -/
abbrev CmdWord := BitVec 16

/-- The values of the three key registers, all set: the triple that `UPDATE` maps to the next one (spec R18, R65). -/
structure KeyState where
  k0 : Key
  k1 : Key
  k2 : Key
deriving DecidableEq, Repr

end Sys2Proof
end

