-- ==== Sys2Proof/Machine/Constants.lean ====
section
/-! DEFINITION. The cipher's fixed constants: definitions, never state, and not programmable (spec R4, R15, R31). -/

namespace Sys2Proof.Machine

/-- SEED (spec R4, R69): the three constants INIT loads. -/
def seed : KeyState := { k0 := 0x12345678#32, k1 := 0x23456789#32, k2 := 0x34567890#32 }

/-- LCG_MUL = 134775813 (spec R4, R65 step 2). -/
def lcgMul : Key := 0x08088405#32

/-- LCG_INC = 1 (spec R4, R65 step 2). -/
def lcgInc : Key := 1#32

/-- CRC_POLY, reflected form (spec R4, R61). UNVERIFIED, unsafe: the spec's own general knowledge (log entry 11). -/
def crcPoly : Key := 0xEDB88320#32

end Sys2Proof.Machine
end

