-- ==== Sys2Proof/Config.lean ====
section
/-! DEFINITION. What an implementation chooses, as a type, and the free values: what the spec leaves open, as opaque
constants without a body. A free value is a function of the source an instance draws from and of a number within it. The
fixed constants of the cipher are in Machine/Constants.lean. -/

namespace Sys2Proof

/-- The parameter CRC_IMPL (spec R4, R61; 93_implementation_defined.md A2): how an implementation builds the CRC step. -/
inductive CrcImpl
  | table
  | bitwise
deriving DecidableEq, Repr

end Sys2Proof

namespace Sys2Proof.Config

/-- The draw a read of a key output returns when it overlaps a command: any 32-bit value (spec R113). A free value:
nothing constrains it (log entry 13). Safe. -/
opaque drawKey : Nat → Nat → Key

/-- The draw a read of phase_o returns when it overlaps a command: any 2-bit value (spec R113). A free value (log
entry 13). Safe. -/
opaque drawPhase : Nat → Nat → BitVec 2

/-- Whether a command that a reset overlaps completes before the reset applies (true) or is lost (false): spec R106
admits both. A free value (log entry 12). Safe. -/
opaque overlapCompletes : Nat → Nat → Bool

end Sys2Proof.Config
end

