-- ==== Sys2Proof/Syntax.lean ====
section
/-! DEFINITION. The command set ZC-CMD v1: one constructor per row of spec/opcode_table.json. -/

namespace Sys2Proof

/-- What one command word is: an instruction, or a reserved word named by its row of the opcode table (spec R51, R52).
A reserved row is a constructor, so decoding is total; its operand is the bits its row leaves free (log entry 22). -/
inductive Instr
  /-- `init`, word 0x0100 (spec R69). -/
  | init
  /-- `absorb b`, word 0x02NN (spec R71). -/
  | absorb (b : Byte)
  /-- `decrypt c`, word 0x03NN (spec R79). -/
  | decrypt (c : Byte)
  /-- OP 0x01 with DATA not 0x00 (spec R54). -/
  | reservedInitData (d : Byte)
  /-- OP 0x00 (spec R53). -/
  | reservedOp00 (x : BitVec 8)
  /-- OP 0x04 to 0x07 (spec R53). -/
  | reservedOp04 (x : BitVec 10)
  /-- OP 0x08 to 0x0F (spec R53). -/
  | reservedOp08 (x : BitVec 11)
  /-- OP 0x10 to 0x1F (spec R53). -/
  | reservedOp10 (x : BitVec 12)
  /-- OP 0x20 to 0x3F (spec R53). -/
  | reservedOp20 (x : BitVec 13)
  /-- OP 0x40 to 0x7F (spec R53). -/
  | reservedOp40 (x : BitVec 14)
  /-- OP 0x80 to 0xFF (spec R53). -/
  | reservedOp80 (x : BitVec 15)
deriving DecidableEq, Repr

/-- The three rows that are instructions; the other eight are reserved verdicts (spec R52). -/
def Instr.isCommand : Instr → Bool
  | .init => true
  | .absorb _ => true
  | .decrypt _ => true
  | .reservedInitData _ => false
  | .reservedOp00 _ => false
  | .reservedOp04 _ => false
  | .reservedOp08 _ => false
  | .reservedOp10 _ => false
  | .reservedOp20 _ => false
  | .reservedOp40 _ => false
  | .reservedOp80 _ => false

end Sys2Proof
end

