-- ==== Sys2Proof/WellFormed.lean ====
section
/-! DEFINITION. Which terms of `Instr` some command word stands for. -/

namespace Sys2Proof

/-- The one check: the reserved INIT row excludes DATA 0x00, which is `init` itself (spec R51, R54). Every byte is a
legal operand of ABSORB and DECRYPT (spec R50, R17), and every other field is as wide as its row's free bits. -/
def Instr.wf : Instr → Bool
  | .init => true
  | .absorb _ => true
  | .decrypt _ => true
  | .reservedInitData d => d != 0#8
  | .reservedOp00 _ => true
  | .reservedOp04 _ => true
  | .reservedOp08 _ => true
  | .reservedOp10 _ => true
  | .reservedOp20 _ => true
  | .reservedOp40 _ => true
  | .reservedOp80 _ => true

end Sys2Proof
end

