-- ==== Sys2Proof/Decode.lean ====
section
/-! DEFINITION. Command words and their fields (spec R48 to R52), the decoder, the encoder, and the byte transport's
order (spec R41, R42). -/

namespace Sys2Proof

/-- OP = w[15:8] (spec R48, R49). -/
def opField (w : CmdWord) : Byte := w.extractLsb' 8 8

/-- DATA = w[7:0] (spec R48, R50). -/
def dataField (w : CmdWord) : Byte := w.extractLsb' 0 8

/-- Total decoding of a command word, in the order of the spec's pseudocode (spec R52); the last seven arms name the
row of the opcode table a reserved OP falls in, its pairs of match and mask taken in order (spec R51, R53). -/
def decode (w : CmdWord) : Instr :=
  if opField w = 0x01#8 then
    if dataField w = 0x00#8 then .init else .reservedInitData (dataField w)
  else if opField w = 0x02#8 then .absorb (dataField w)
  else if opField w = 0x03#8 then .decrypt (dataField w)
  else if opField w = 0x00#8 then .reservedOp00 (dataField w)
  else if opField w < 0x08#8 then .reservedOp04 (w.extractLsb' 0 10)
  else if opField w < 0x10#8 then .reservedOp08 (w.extractLsb' 0 11)
  else if opField w < 0x20#8 then .reservedOp10 (w.extractLsb' 0 12)
  else if opField w < 0x40#8 then .reservedOp20 (w.extractLsb' 0 13)
  else if opField w < 0x80#8 then .reservedOp40 (w.extractLsb' 0 14)
  else .reservedOp80 (w.extractLsb' 0 15)

/-- Why a sequence of bytes gives no command word. -/
inductive ByteReject
  /-- Fewer than the two bytes of a command word are there (spec R42). -/
  | truncated
deriving DecidableEq, Repr

/-- The two bytes a byte transport sends for a command word, OP first (spec R41). -/
def wordBytes (w : CmdWord) : List Byte := [opField w, dataField w]

/-- The command word that two transported bytes make, OP first (spec R41). -/
def wordOfBytes (op data : Byte) : CmdWord := (op.setWidth 16 <<< 8) ||| data.setWidth 16

/-- The decoder on bytes: the first command and the bytes after it; less than a whole word is no command (spec R41,
R42, R57). -/
def decodeBytes : List Byte → Except ByteReject (Instr × List Byte)
  | [] => .error .truncated
  | [_] => .error .truncated
  | op :: data :: rest => .ok (decode (wordOfBytes op data), rest)

/-- The word of an instruction, each row's match with the row's free bits filled in (opcode table; spec R51, R69, R71, R79). -/
def encode : Instr → CmdWord
  | .init => 0x0100#16
  | .absorb b => 0x0200#16 ||| b.setWidth 16
  | .decrypt c => 0x0300#16 ||| c.setWidth 16
  | .reservedInitData d => 0x0100#16 ||| d.setWidth 16
  | .reservedOp00 x => 0x0000#16 ||| x.setWidth 16
  | .reservedOp04 x => 0x0400#16 ||| x.setWidth 16
  | .reservedOp08 x => 0x0800#16 ||| x.setWidth 16
  | .reservedOp10 x => 0x1000#16 ||| x.setWidth 16
  | .reservedOp20 x => 0x2000#16 ||| x.setWidth 16
  | .reservedOp40 x => 0x4000#16 ||| x.setWidth 16
  | .reservedOp80 x => 0x8000#16 ||| x.setWidth 16

/-- The instruction the decoder reads from an instruction whose bits are `w`, numbered as the opcode table numbers
them: one 16-bit word, bit 0 its least significant bit. A word wider than `nbits`, or `nbits` over 16, is none. -/
def decodeTableWord (nbits w : Nat) : Option Instr :=
  if nbits ≤ 16 ∧ w < 2 ^ nbits then
    match decodeBytes (wordBytes (BitVec.ofNat 16 w)) with
    | .ok (i, []) => some i
    | .ok (_, _ :: _) => none
    | .error _ => none
  else none

end Sys2Proof
end

