-- ==== Sys2Proof/Machine/State.lean ====
section
/-! DEFINITION. The state of one core instance with its host's side of the ports, the reasons a step can stop, and the
state right after power-on reset. Plain data throughout. -/

namespace Sys2Proof.Machine

/-- The phase register's named values (spec R22, R23). Its encoding is in Machine/Flags.lean. -/
inductive Phase
  | idle
  | keying
  | streaming
deriving DecidableEq, Repr

/-- The names of the three key registers (spec R9, R18). -/
inductive KeyIndex
  | key0
  | key1
  | key2
deriving DecidableEq, Repr

/-- The read-only observation outputs: key_0_o, key_1_o, key_2_o and phase_o (spec R26). -/
inductive OutputPort
  | key (i : KeyIndex)
  | phase
deriving DecidableEq, Repr

/-- The faults of spec R91 (codes 16 and 17); no other exists. The hardware itself raises nothing (spec R89). A fault of an
output read is recorded in the fault mark and the core goes on (spec R9, R21, R22; log entry 27); only ABSORB and DECRYPT
stop with one, in states no run reaches. -/
inductive Fault
  /-- An unset key register is read: by an output read, which records it (spec R21, R26), or by ABSORB or DECRYPT in a state
  no run reaches (spec R21, R35), where the model stops. Safe. -/
  | unsetKeyRead
  /-- The phase register is read and holds 0b11, in a state no run reaches: by phase_o, which records it (spec R22), or by
  ABSORB or DECRYPT (log entry 9), where the model stops. Safe. -/
  | badPhase
deriving DecidableEq, Repr

/-- The refusals of spec R91 (codes 1 to 6), and the host's `notModelled`, which no arm of this model uses. -/
inductive Refusal
  /-- The host's: an instruction with no meaning yet. Raised by no arm here. Safe. -/
  | notModelled (mnemonic : String)
  /-- OP 0x00 or 0x04 to 0xFF; raised by the seven reserved-opcode meanings (spec R53). Safe. -/
  | reservedOpcode
  /-- OP 0x01 with DATA not 0x00; raised by execReservedInitData (spec R54). Safe. -/
  | reservedInitData
  /-- ABSORB while IDLE; raised by execAbsorb (spec R71). Safe. -/
  | absorbBeforeInit
  /-- ABSORB while STREAMING; raised by execAbsorb (spec R71). Safe. -/
  | absorbAfterDecrypt
  /-- DECRYPT while IDLE; raised by execDecrypt (spec R79). Safe. -/
  | decryptBeforeInit
  /-- A transport delivers part of a command word; raised by the event of a lone byte (spec R42). Safe. -/
  | truncated
deriving DecidableEq, Repr

/-- The number spec R91 gives a fault, for use in a model. -/
def Fault.code : Fault → Nat
  | .unsetKeyRead => 16
  | .badPhase => 17

/-- The number spec R91 gives a refusal; the host's own refusal has none. -/
def Refusal.code : Refusal → Option Nat
  | .notModelled _ => none
  | .reservedOpcode => some 1
  | .reservedInitData => some 2
  | .absorbBeforeInit => some 3
  | .absorbAfterDecrypt => some 4
  | .decryptBeforeInit => some 5
  | .truncated => some 6

/-- What can overlap a command in progress: a reset (spec R106), or a read of an observation output (spec R113). -/
inductive Access
  | reset
  | read (o : OutputPort)
deriving DecidableEq, Repr

/-- One thing the host does at the core's ports (spec R13, R37). -/
inductive HostEvent
  /-- A whole command word on the command port (spec R37, R48). -/
  | command (w : CmdWord)
  /-- Part of a command word: a lone byte on a byte transport (spec R42). -/
  | lone (b : Byte)
  /-- A reset between commands (spec R103). -/
  | reset
  /-- A read of an observation output between commands (spec R26). -/
  | read (o : OutputPort)
  /-- The command `w`, and in their order the accesses that overlap it while it is in progress, any number of them (spec
  R106, R113; log entry 26). -/
  | during (w : CmdWord) (accesses : List Access)
deriving DecidableEq, Repr

/-- The value one read of an observation output gave the host (spec R26, R113). -/
inductive Reading
  | key (i : KeyIndex) (v : Key)
  | phase (v : BitVec 2)
deriving DecidableEq, Repr

/-- What the refused mark records: the first refusal's reason, the position of the command among the host's commands
since power-on, and the refused unit itself (spec R93; log entry 4). -/
structure RefusedMark where
  reason : Refusal
  position : Nat
  unit : HostEvent
deriving DecidableEq, Repr

/-- The state of one core instance (spec, summary table of 10_state.md), and after it the host's side of the ports. -/
structure State where
  /-- key[0]; `none` is the spec's own value "unset" (spec R18, R21). -/
  key0 : Option Key
  /-- key[1] (spec R18, R21). -/
  key1 : Option Key
  /-- key[2] (spec R18, R21). -/
  key2 : Option Key
  /-- The 2-bit phase register (spec R22). -/
  phase : BitVec 2
  /-- The response stream: every byte emitted since power-on, oldest first (spec R25). -/
  response : List Byte
  /-- The sticky refused mark: model bookkeeping (spec R33, R93). -/
  refusedMark : Option RefusedMark
  /-- The sticky fault mark: model bookkeeping (spec R21, R22, R33). -/
  faultMark : Option Fault
  /-- The model's own: what the host has not presented yet, next first (log entry 3). -/
  input : List HostEvent
  /-- The model's own: how many commands, whole or partial, the host has presented since power-on (log entry 4). -/
  position : Nat
  /-- The model's own: how many free values have been used (log entry 5). -/
  draws : Nat
  /-- The model's own: what the host has read on the observation outputs, oldest first (log entry 6). -/
  reads : List Reading
  /-- The model's own: the implementation's CRC_IMPL, an argument of the model that no step changes (spec R4; log entry
  24). -/
  crcImpl : CrcImpl
  /-- The model's own: the source of free values this instance draws from, so that two instances draw apart (spec R46,
  R100; log entry 25). It is no identifier register: no command and no output reads it. -/
  source : Nat
deriving DecidableEq, Repr

/-- The state right after power-on, which is a reset with an empty response stream and no mark (spec R34, R103, R105).
The host has presented nothing yet (log entries 3 to 6); the parameters are named by log entries 24 and 25. -/
def State.reset : State :=
  { key0 := none, key1 := none, key2 := none
    phase := 0b00#2
    response := []
    refusedMark := none, faultMark := none
    input := []
    position := 0
    draws := 0
    reads := []
    crcImpl := .table
    source := 0 }

/-- Power-on of an instance with its parameters given as arguments (spec R4, R105; log entries 24, 25). -/
def State.powerOn (impl : CrcImpl) (source : Nat) : State := { State.reset with crcImpl := impl, source := source }

end Sys2Proof.Machine
end

