-- ==== Sys2Proof/Machine/Flags.lean ====
section
/-! DEFINITION. The core has no flags and no condition codes (spec R28). Its one status register is the phase (spec
R29): its encoding and what each phase admits stand here. -/

namespace Sys2Proof.Machine

/-- The 2-bit code of a phase, as phase_o shows it (spec R22). -/
def Phase.code : Phase → BitVec 2
  | .idle => 0b00#2
  | .keying => 0b01#2
  | .streaming => 0b10#2

/-- The phase a 2-bit code stands for; 0b11 stands for none (spec R22). -/
def Phase.ofCode (c : BitVec 2) : Option Phase :=
  if c = 0b00#2 then some .idle
  else if c = 0b01#2 then some .keying
  else if c = 0b10#2 then some .streaming
  else none

/-- The phase check of ABSORB: why it is refused in a phase, if it is (spec R24, R71). -/
def absorbCheck : Phase → Option Refusal
  | .idle => some .absorbBeforeInit
  | .keying => none
  | .streaming => some .absorbAfterDecrypt

/-- The phase check of DECRYPT: why it is refused in a phase, if it is (spec R24, R79). -/
def decryptCheck : Phase → Option Refusal
  | .idle => some .decryptBeforeInit
  | .keying => none
  | .streaming => none

end Sys2Proof.Machine
end

