-- ==== Sys2Proof/Machine/Operands.lean ====
section
/-! DEFINITION. The bytes the rules select from a value, and the one operand form (spec R6, R38, R50). -/

namespace Sys2Proof.Machine

/-- Bits [7:0] of a 32-bit value: the source's `key_0 & 0xFF` (spec R6, R38). -/
def lowByte (v : Key) : Byte := v.extractLsb' 0 8

/-- Bits [31:24] of a 32-bit value: the source's "high byte of key_1" (spec R6, R38). -/
def highByte (v : Key) : Byte := v.extractLsb' 24 8

/-- A byte operand at 32 bits: `zext_32(b)`, never sign-extended, scaled or shifted (spec R50). -/
def byteOperand (b : Byte) : Key := b.setWidth 32

end Sys2Proof.Machine
end

