-- ==== Sys2Proof/Machine/Ops.lean ====
section
/-! DEFINITION. The shared operations: the pure functions CRCSTEP, UPDATE and KS, the accessors of the registers, the
phase-checked access to the keys, reset, the observation outputs, and the sticky marks. The core takes no exception and
returns from none (spec R89, R96, R97), so no such operation exists. -/

namespace Sys2Proof.Machine

/-! ### The pure functions -/

/-- One round of the table's generator: shift right, and XOR the polynomial if a 1 fell out (spec R61). -/
def crcRound (c : Key) : Key :=
  if c.getLsbD 0 then (c >>> 1) ^^^ crcPoly else c >>> 1

/-- `n` rounds of the generator (spec R61). -/
def crcRounds : Nat → Key → Key
  | 0, c => c
  | n + 1, c => crcRounds n (crcRound c)

/-- The CRC table's entry T[n], by its generator (spec R61). The printed table is in Machine/CrcTable.lean. -/
def crcEntry (n : Byte) : Key := crcRounds 8 (byteOperand n)

/-- `CRCSTEP(acc, b) := (acc >> 8) ^ T[(acc ^ zext_32(b))[7:0]]` (spec R61): the table form of CRC_IMPL. -/
def crcStep (acc : Key) (b : Byte) : Key :=
  (acc >>> 8) ^^^ crcEntry (lowByte (acc ^^^ byteOperand b))

/-- The bitwise circuit of CRC_IMPL: the generator's loop on `acc ^ zext_32(b)` (spec R61). -/
def crcStepBitwise (acc : Key) (b : Byte) : Key := crcRounds 8 (acc ^^^ byteOperand b)

/-- The CRC step as the implementation builds it (spec R4, R16, R61). -/
def crcStepBy : CrcImpl → Key → Byte → Key
  | .table => crcStep
  | .bitwise => crcStepBitwise

/-- The standard routine `CRC32(acc, [b])`: complement on entry and on exit (spec R62). -/
def crc32 (acc : Key) (b : Byte) : Key := ~~~ (crcStep (~~~ acc) b)

/-- `UPDATE(k, b)` on an implementation: the four ordered steps that absorb one byte (spec R65, R66). -/
def updateBy (impl : CrcImpl) (k : KeyState) (b : Byte) : KeyState :=
  let k0' := crcStepBy impl k.k0 b
  let k1' := (k.k1 + byteOperand (lowByte k0')) * lcgMul + lcgInc
  let k2' := crcStepBy impl k.k2 (highByte k1')
  { k0 := k0', k1 := k1', k2 := k2' }

/-- `UPDATE(k, b)` as spec R65 writes it, with CRCSTEP by its formula. -/
def update (k : KeyState) (b : Byte) : KeyState := updateBy .table k b

/-- KS's 16-bit intermediate: `trunc_16(k2 | 2)` (spec R75). -/
def ksTemp (k2 : Key) : BitVec 16 := (k2 ||| 0x00000002#32).setWidth 16

/-- `KS(k2)`: the keystream byte, bits [15:8] of the 32-bit product (spec R75). -/
def keystream (k2 : Key) : Byte :=
  (((ksTemp k2).setWidth 32 * (ksTemp k2 ^^^ 0x0001#16).setWidth 32) >>> 8).setWidth 8

/-! ### The registers -/

/-- The value of one key register; `none` while it is unset (spec R9, R21). -/
def State.key (s : State) : KeyIndex → Option Key
  | .key0 => s.key0
  | .key1 => s.key1
  | .key2 => s.key2

/-- All three key registers, if all are set (spec R21). -/
def State.readKeys (s : State) : Option KeyState :=
  match s.key0, s.key1, s.key2 with
  | some a, some b, some c => some { k0 := a, k1 := b, k2 := c }
  | _, _, _ => none

/-- Write all three key registers: the only write to them there is (spec R19, R43). -/
def State.writeKeys (s : State) (k : KeyState) : State :=
  { s with key0 := some k.k0, key1 := some k.k1, key2 := some k.k2 }

/-- `phase <- p` (spec R9, R22). -/
def State.setPhase (s : State) (p : Phase) : State := { s with phase := p.code }

/-- `Emit(p)`: append one byte to the response stream (spec R9, R25). -/
def State.emit (s : State) (p : Byte) : State := { s with response := s.response ++ [p] }

/-- The same core built with another CRC_IMPL: no event of the core does this (spec R4; log entry 24). -/
def State.withCrcImpl (s : State) (impl : CrcImpl) : State := { s with crcImpl := impl }

/-- Reset: the keys become unset and the phase IDLE; the response stream and the marks stay (spec R34, R103). -/
def State.applyReset (s : State) : State :=
  { s with key0 := none, key1 := none, key2 := none, phase := Phase.idle.code }

/-- What ABSORB and DECRYPT share: read the phase, refuse by the phase check, read the keys, then act on them (spec
R92 check 3, R24; R21 for a key read while unset; log entries 9 and 10). -/
def guarded (check : Phase → Option Refusal) (act : KeyState → State → State) (s : State) :
    Host.Outcome State Fault Refusal :=
  match Phase.ofCode s.phase with
  | none => .fault .badPhase
  | some p =>
    match check p with
    | some r => .refused r
    | none =>
      match s.readKeys with
      | none => .fault .unsetKeyRead
      | some k => .next (act k s)

/-! ### The observation outputs -/

/-- The value an output shows between commands: the register's; an unset key has none (spec R21, R26). -/
def State.shown (s : State) : OutputPort → Option Reading
  | .key i => (s.key i).map (.key i)
  | .phase => some (.phase s.phase)

/-- The fault a read of an output between commands records, if any: UnsetKeyRead for an unset key, BadPhase for phase
code 0b11 (spec R21, R22, R26). -/
def State.readFault (s : State) : OutputPort → Option Fault
  | .key i =>
    match s.key i with
    | some _ => none
    | none => some .unsetKeyRead
  | .phase =>
    match Phase.ofCode s.phase with
    | some _ => none
    | none => some .badPhase

/-- What a read that overlaps a command gives: the `n`-th draw of the instance's source, any value of the output's width
(spec R113). DESIGN CHOICE: a draw it is also while the key is unset, where R21 names a fault (log entry 13). -/
def drawnReading (source n : Nat) : OutputPort → Reading
  | .key i => .key i (Config.drawKey source n)
  | .phase => .phase (Config.drawPhase source n)

/-- The draws of the reads among a command's overlapping accesses; the access at place `k` has number `n + k` (spec
R113; log entry 5). -/
def drawnReadings (source n : Nat) : List Access → List Reading
  | [] => []
  | .reset :: as => drawnReadings source (n + 1) as
  | .read o :: as => drawnReading source n o :: drawnReadings source (n + 1) as

/-- Whether a reset is among the accesses that overlap a command (spec R106). -/
def hasReset : List Access → Bool
  | [] => false
  | .reset :: _ => true
  | .read _ :: as => hasReset as

/-- The host keeps what it read; nothing of the core changes (spec R26, R43; log entry 6). -/
def State.noteReads (s : State) (rs : List Reading) : State := { s with reads := s.reads ++ rs }

/-! ### Events and marks -/

/-- How many commands of the host's sequence an event is (log entry 4). -/
def HostEvent.commands : HostEvent → Nat
  | .command _ => 1
  | .lone _ => 1
  | .reset => 0
  | .read _ => 0
  | .during _ _ => 1

/-- The accesses that overlap an event's command (spec R106, R113). -/
def HostEvent.accesses : HostEvent → List Access
  | .command _ => []
  | .lone _ => []
  | .reset => []
  | .read _ => []
  | .during _ as => as

/-- How many free values an event uses: one for each access that overlaps a command (spec R106, R113; log entry 5). -/
def HostEvent.draws (e : HostEvent) : Nat := e.accesses.length

/-- The host has presented the event `e`; `rest` is what it has still to present. Nothing of the core changes. -/
def State.accept (s : State) (e : HostEvent) (rest : List HostEvent) : State :=
  { s with input := rest, position := s.position + e.commands, draws := s.draws + e.draws }

/-- Set the refused mark, keeping the first one (spec R33, R93). -/
def State.markRefused (s : State) (m : RefusedMark) : State :=
  { s with refusedMark := s.refusedMark.or (some m) }

/-- Record a fault, if there is one, keeping the first (spec R9, R33; log entry 23). -/
def State.markFault (s : State) (f : Option Fault) : State :=
  { s with faultMark := s.faultMark.or f }

/-- A read of an output between commands: the host has the value shown, or the fault is recorded; no other effect (spec R9,
R21, R22, R26, R43; log entry 27). -/
def State.readOutput (s : State) (o : OutputPort) : State := (s.noteReads (s.shown o).toList).markFault (s.readFault o)

/-- The outcome with its next state, if there is one, changed by `f`. -/
def mapNext (f : State → State) : Host.Outcome State Fault Refusal → Host.Outcome State Fault Refusal
  | .next s => .next (f s)
  | .fault r => .fault r
  | .refused r => .refused r

end Sys2Proof.Machine
end

