-- ==== Sys2Proof/Machine/Keying.lean ====
section
/-! DEFINITION. The meanings of INIT and ABSORB (spec 40_key_update.md). -/

namespace Sys2Proof.Machine

/-- INIT: load the seeds and enter KEYING, in every phase; nothing is emitted (spec R69). -/
def execInit (s : State) : Host.Outcome State Fault Refusal :=
  .next ((s.writeKeys seed).setPhase .keying)

/-- ABSORB b: in KEYING, fold one password byte into the keys; the phase stays (spec R71). -/
def execAbsorb (b : Byte) (s : State) : Host.Outcome State Fault Refusal :=
  guarded absorbCheck (fun k s => s.writeKeys (updateBy s.crcImpl k b)) s

end Sys2Proof.Machine
end

