-- ==== Sys2Proof/Machine/Reserved.lean ====
section
/-! DEFINITION. The reserved rows of the opcode table: each is refused in every phase (spec R53, R54, R92), because the
spec gives the hardware's response no effect: "The core's hardware response to it is unspecified" (R53). One definition
per row. -/

namespace Sys2Proof.Machine

/-- The shared refusal of a reserved OP: no step (spec R53, R93). -/
def refuseReservedOpcode (_s : State) : Host.Outcome State Fault Refusal := .refused .reservedOpcode

/-- OP 0x01 with DATA not 0x00: no step (spec R54, R93). -/
def execReservedInitData (_d : Byte) (_s : State) : Host.Outcome State Fault Refusal := .refused .reservedInitData

/-- OP 0x00 (spec R53): reserved, not a no-op. -/
def execReservedOp00 (_x : BitVec 8) (s : State) : Host.Outcome State Fault Refusal := refuseReservedOpcode s

/-- OP 0x04 to 0x07 (spec R53). -/
def execReservedOp04 (_x : BitVec 10) (s : State) : Host.Outcome State Fault Refusal := refuseReservedOpcode s

/-- OP 0x08 to 0x0F (spec R53). -/
def execReservedOp08 (_x : BitVec 11) (s : State) : Host.Outcome State Fault Refusal := refuseReservedOpcode s

/-- OP 0x10 to 0x1F (spec R53). -/
def execReservedOp10 (_x : BitVec 12) (s : State) : Host.Outcome State Fault Refusal := refuseReservedOpcode s

/-- OP 0x20 to 0x3F (spec R53). -/
def execReservedOp20 (_x : BitVec 13) (s : State) : Host.Outcome State Fault Refusal := refuseReservedOpcode s

/-- OP 0x40 to 0x7F (spec R53). -/
def execReservedOp40 (_x : BitVec 14) (s : State) : Host.Outcome State Fault Refusal := refuseReservedOpcode s

/-- OP 0x80 to 0xFF (spec R53). -/
def execReservedOp80 (_x : BitVec 15) (s : State) : Host.Outcome State Fault Refusal := refuseReservedOpcode s

end Sys2Proof.Machine
end

