-- ==== Sys2Proof/Machine/Streaming.lean ====
section
/-! DEFINITION. The meaning of DECRYPT (spec 41_decrypt.md). -/

namespace Sys2Proof.Machine

/-- The plaintext byte of a ciphertext byte: `c ^ KS(key[2])`, from the keys before the update (spec R79). -/
def plaintext (k : KeyState) (c : Byte) : Byte := c ^^^ keystream k.k2

/-- DECRYPT c: in KEYING or STREAMING, decrypt one byte, feed the PLAINTEXT back into the keys, enter STREAMING and emit
the plaintext (spec R79, R80). -/
def execDecrypt (c : Byte) (s : State) : Host.Outcome State Fault Refusal :=
  guarded decryptCheck
    (fun k s => ((s.writeKeys (updateBy s.crcImpl k (plaintext k c))).setPhase .streaming).emit (plaintext k c)) s

end Sys2Proof.Machine
end

