-- ==== Sys2Proof/Machine/Dispatch.lean ====
section
/-! DEFINITION. exec: one arm per constructor of Instr, each one direct call of its meaning. -/

namespace Sys2Proof.Machine

def exec (i : Instr) (s : State) : Host.Outcome State Fault Refusal :=
  match i with
  | .init => Sys2Proof.Machine.execInit s
  | .absorb b => Sys2Proof.Machine.execAbsorb b s
  | .decrypt c => Sys2Proof.Machine.execDecrypt c s
  | .reservedInitData d => Sys2Proof.Machine.execReservedInitData d s
  | .reservedOp00 x => Sys2Proof.Machine.execReservedOp00 x s
  | .reservedOp04 x => Sys2Proof.Machine.execReservedOp04 x s
  | .reservedOp08 x => Sys2Proof.Machine.execReservedOp08 x s
  | .reservedOp10 x => Sys2Proof.Machine.execReservedOp10 x s
  | .reservedOp20 x => Sys2Proof.Machine.execReservedOp20 x s
  | .reservedOp40 x => Sys2Proof.Machine.execReservedOp40 x s
  | .reservedOp80 x => Sys2Proof.Machine.execReservedOp80 x s

end Sys2Proof.Machine
end

