-- ==== Sys2Proof/Machine/Events.lean ====
section
/-! DEFINITION. What the core does with one thing the host presents: a command word, part of one, a reset, a read of an
observation output, or a command with resets and reads over it. -/

namespace Sys2Proof.Machine

/-- Perform one command word: decode it and run it. Once the refused mark is set the run has no meaning, and a command
is refused again, with the first reason (spec R93; 95_test_vectors.md 2.9, last row; log entry 8). -/
def perform (w : CmdWord) (s : State) : Host.Outcome State Fault Refusal :=
  match s.refusedMark with
  | some m => .refused m.reason
  | none => exec (decode w) s

/-- Part of a command word is no command (spec R42, R92 check 1). -/
def refusePartial (s : State) : Host.Outcome State Fault Refusal :=
  match s.refusedMark with
  | some m => .refused m.reason
  | none => .refused .truncated

/-- The command `w` with a reset over it: the command completes and then reset applies, or the command is lost; the free
value `completes` says which. Several resets over one command have these two outcomes too (spec R95, R106; log entry 26). -/
def resetOverlapping (completes : Bool) (w : CmdWord) (s : State) : Host.Outcome State Fault Refusal :=
  if completes then mapNext State.applyReset (perform w s) else .next s.applyReset

/-- The command `w` with accesses over it: a reset among them acts on it as R106 says, and each read among them gives the
host a draw (spec R106, R113; log entries 13, 26). DESIGN CHOICE, unsafe: R113 prevails over R21, so a read of an unset
key is drawn too and records no fault (log entry 13). -/
def performDuring (w : CmdWord) (accesses : List Access) (n : Nat) (s : State) : Host.Outcome State Fault Refusal :=
  mapNext (fun t => t.noteReads (drawnReadings s.source n accesses))
    (if hasReset accesses then resetOverlapping (Config.overlapCompletes s.source n) w s else perform w s)

/-- What the core does with an event the host has presented; `n` is the number of the first free value an overlap uses,
within the instance's own source (log entries 5, 25). -/
def handle (e : HostEvent) (n : Nat) (s : State) : Host.Outcome State Fault Refusal :=
  match e with
  | .command w => perform w s
  | .lone _ => refusePartial s
  | .reset => .next s.applyReset
  | .read o => .next (s.readOutput o)
  | .during w as => performDuring w as n s

/-- The outcome of one step: with nothing presented, the core holds its state (spec R102, R104); else it handles the
next event, once the host has presented it. -/
def stepOnInput (s : State) : Host.Outcome State Fault Refusal :=
  match s.input with
  | [] => .next s
  | e :: rest => handle e s.draws (s.accept e rest)

/-- `s` with the command word `w` as the next thing the host presents. -/
def State.present (s : State) (w : CmdWord) : State := { s with input := .command w :: s.input }

end Sys2Proof.Machine
end

