-- ==== Sys2Proof/Machine/Step.lean ====
section
/-! DEFINITION. The step function, and the host's way to present one instruction's word. -/

namespace Sys2Proof.Machine

/-- One step: one transaction of the host's, performed whole (spec R5, R43, R45). -/
def step (s : State) : Host.Outcome State Fault Refusal := stepOnInput s

/-- `s` with the instruction of bits `w` (the bits above `nbits` zero) presented next: the core fetches nothing, the
host presents each command (spec R27; log entry 15). -/
def State.withFetchWord (s : State) (nbits w : Nat) : State := s.present (BitVec.ofNat 16 (w % 2 ^ nbits))

end Sys2Proof.Machine
end

