-- ==== Sys2Proof/Machine/Macros.lean ====
section
/-! DEFINITION. The host's macros (spec R60), the functions they compute (spec R70, R82), and the test-bench encryptor,
which is no command of the core (spec R56, R88). -/

namespace Sys2Proof.Machine

/-- `open p`: init, then absorb each password byte in order (spec R60, R107). -/
def openMacro (p : List Byte) : List Instr := .init :: p.map .absorb

/-- `decrypt_chunk c`: decrypt each ciphertext byte in order; an empty chunk issues nothing (spec R60, R82). -/
def decryptChunk (c : List Byte) : List Instr := c.map .decrypt

/-- The commands of a program as the host presents them (spec R37, R60). -/
def presented (is : List Instr) : List HostEvent := is.map (fun i => .command (encode i))

/-- K(p): the key state after `open p` (spec R70). -/
def passwordKeys (p : List Byte) : KeyState := p.foldl update seed

/-- DEC1(k, c): one byte's keys and plaintext (spec R82). -/
def decByte (k : KeyState) (c : Byte) : KeyState × Byte := (update k (plaintext k c), plaintext k c)

/-- DEC(k, c): a chunk's final keys and plaintext (spec R82). -/
def decBytes (k : KeyState) : List Byte → KeyState × List Byte
  | [] => (k, [])
  | c :: cs =>
    let (k1, p) := decByte k c
    let (k2, ps) := decBytes k1 cs
    (k2, p :: ps)

/-- One step of the test-bench encryptor: it absorbs the plaintext byte (spec R88). -/
def encByte (k : KeyState) (p : Byte) : KeyState × Byte := (update k p, p ^^^ keystream k.k2)

/-- The test-bench encryptor over a message (spec R88). -/
def encBytes (k : KeyState) : List Byte → KeyState × List Byte
  | [] => (k, [])
  | p :: ps =>
    let (k1, c) := encByte k p
    let (k2, cs) := encBytes k1 ps
    (k2, c :: cs)

end Sys2Proof.Machine
end

