-- ==== Sys2Proof/Machine/Assembler.lean ====
section
/-! DEFINITION. The assembler of ZC-CMD v1 (spec R58, R59) and the spelling of the host macros' operands (spec R60): one
line of characters to the command words it stands for, or none where the assembler rejects it. A host tool: nothing of
the core's semantics rests on it. What the spec's grammar leaves open is in log entry 19. -/

namespace Sys2Proof.Machine

/-- A space or a tab (log entry 19). -/
def isBlank (c : Char) : Bool := c == ' ' || c == '\t'

/-- Drop the blanks at the front. -/
def skipBlanks : List Char → List Char
  | [] => []
  | c :: cs => if isBlank c then skipBlanks cs else c :: cs

/-- Nothing but blanks and a comment is left of the line (spec R58). -/
def lineEnds (cs : List Char) : Bool :=
  match skipBlanks cs with
  | [] => true
  | c :: _ => c == ';'

/-- The value of a hexadecimal digit, of either case (log entry 19). -/
def hexDigit (c : Char) : Option Nat :=
  if '0'.toNat ≤ c.toNat ∧ c.toNat ≤ '9'.toNat then some (c.toNat - '0'.toNat)
  else if 'A'.toNat ≤ c.toNat ∧ c.toNat ≤ 'F'.toNat then some (c.toNat - 'A'.toNat + 10)
  else if 'a'.toNat ≤ c.toNat ∧ c.toNat ≤ 'f'.toNat then some (c.toNat - 'a'.toNat + 10)
  else none

/-- The value of a decimal digit. -/
def decDigit (c : Char) : Option Nat :=
  if '0'.toNat ≤ c.toNat ∧ c.toNat ≤ '9'.toNat then some (c.toNat - '0'.toNat) else none

/-- The byte of a printable ASCII character, 0x20 to 0x7E (spec R58). -/
def printable (c : Char) : Option Byte :=
  if 0x20 ≤ c.toNat ∧ c.toNat ≤ 0x7E then some (BitVec.ofNat 8 c.toNat) else none

/-- The decimal digits at the front, on top of `acc`, and what follows them. -/
def decimal (acc : Nat) : List Char → Nat × List Char
  | [] => (acc, [])
  | c :: cs =>
    match decDigit c with
    | some d => decimal (acc * 10 + d) cs
    | none => (acc, c :: cs)

/-- A decimal literal from 0 to 255; one out of range is rejected (spec R58, R59). -/
def decimalByte : List Char → Option (Byte × List Char)
  | [] => none
  | c :: cs =>
    match decDigit c with
    | none => none
    | some d =>
      match decimal d cs with
      | (n, rest) => if n ≤ 255 then some (BitVec.ofNat 8 n, rest) else none

/-- `<imm8>` in one of its three forms, and what follows it: `0xNN`, a decimal literal, or a printable character in
single quotes (spec R58). -/
def imm8 : List Char → Option (Byte × List Char)
  | '0' :: 'x' :: h :: l :: rest =>
    match hexDigit h, hexDigit l with
    | some a, some b => some (BitVec.ofNat 8 (a * 16 + b), rest)
    | _, _ => none
  | '\'' :: c :: '\'' :: rest =>
    match printable c with
    | some b => some (b, rest)
    | none => none
  | cs => decimalByte cs

/-- The characters of a quoted string up to its closing quote, each one byte, and what follows the quote (spec R11,
R60). -/
def quoted : List Char → Option (List Byte × List Char)
  | [] => none
  | c :: cs =>
    if c = '"' then some ([], cs)
    else
      match printable c, quoted cs with
      | some b, some (bs, rest) => some (b :: bs, rest)
      | _, _ => none

/-- The rest of a non-empty bracketed list, from an imm8 on; `fuel` bounds its length (spec R60). DESIGN CHOICE: any
number of blanks, or none, before each imm8, before each comma and before the bracket that closes (log entry 19). -/
def bracketed : Nat → List Char → Option (List Byte × List Char)
  | 0, _ => none
  | fuel + 1, cs =>
    match imm8 (skipBlanks cs) with
    | none => none
    | some (b, rest) =>
      match skipBlanks rest with
      | ']' :: after => some ([b], after)
      | ',' :: more =>
        match bracketed fuel more with
        | some (bs, after) => some (b :: bs, after)
        | none => none
      | _ => none

/-- `<bytes>`: a quoted string, or a bracketed list of imm8 values (spec R60); blanks may follow the opening bracket (log
entry 19). -/
def bytesOperand : List Char → Option (List Byte × List Char)
  | '"' :: cs => quoted cs
  | '[' :: cs =>
    match skipBlanks cs with
    | ']' :: after => some ([], after)
    | _ => bracketed (cs.length + 1) cs
  | _ => none

/-- One blank or more between a mnemonic and its operand, then the operand. -/
def operandText : List Char → Option (List Char)
  | [] => none
  | c :: cs => if isBlank c then some (skipBlanks cs) else none

/-- A line whose mnemonic takes an imm8 (spec R58, R59). -/
def withImm8 (op : Byte → Instr) (cs : List Char) : Option (List Instr) :=
  match operandText cs with
  | none => none
  | some text =>
    match imm8 text with
    | some (b, rest) => if lineEnds rest then some [op b] else none
    | none => none

/-- A line whose macro takes a byte sequence (spec R60). -/
def withBytes (expand : List Byte → List Instr) (cs : List Char) : Option (List Instr) :=
  match operandText cs with
  | none => none
  | some text =>
    match bytesOperand text with
    | some (bs, rest) => if lineEnds rest then some (expand bs) else none
    | none => none

/-- One line's commands: a blank or comment line has none, `init` takes no operand, `absorb` and `decrypt` take one
imm8, `open` and `decrypt_chunk` are the host macros; anything else is rejected (spec R58, R59, R60). -/
def parseStatement : List Char → Option (List Instr)
  | 'i' :: 'n' :: 'i' :: 't' :: rest => if lineEnds rest then some [.init] else none
  | 'a' :: 'b' :: 's' :: 'o' :: 'r' :: 'b' :: rest => withImm8 .absorb rest
  | 'd' :: 'e' :: 'c' :: 'r' :: 'y' :: 'p' :: 't' :: '_' :: 'c' :: 'h' :: 'u' :: 'n' :: 'k' :: rest =>
    withBytes decryptChunk rest
  | 'd' :: 'e' :: 'c' :: 'r' :: 'y' :: 'p' :: 't' :: rest => withImm8 .decrypt rest
  | 'o' :: 'p' :: 'e' :: 'n' :: rest => withBytes openMacro rest
  | cs => if lineEnds cs then some [] else none

/-- One line to its command words (spec R58, R59, R60). -/
def assembleLine (line : List Char) : Option (List CmdWord) :=
  match parseStatement (skipBlanks line) with
  | some is => some (is.map encode)
  | none => none

/-- A program, one command a line (spec R58). -/
def assemble : List (List Char) → Option (List CmdWord)
  | [] => some []
  | l :: ls =>
    match assembleLine l, assemble ls with
    | some ws, some more => some (ws ++ more)
    | _, _ => none

/-- The upper-case hexadecimal digit of a value below 16. -/
def hexChar (n : Nat) : Char := if n < 10 then Char.ofNat ('0'.toNat + n) else Char.ofNat ('A'.toNat + (n - 10))

/-- `0xNN`: the two-digit spelling of a byte (spec R58). -/
def spellByte (b : Byte) : List Char := ['0', 'x', hexChar (b.toNat / 16), hexChar (b.toNat % 16)]

end Sys2Proof.Machine
end

