-- ==== Sys2Proof/Machine/Transport.lean ====
section
/-! DEFINITION. A transport that carries command words as bytes (spec R41, R42): what the core's command port sees of a
byte stream. -/

namespace Sys2Proof.Machine

/-- Bytes pair up into command words, OP first; a byte left over at the end is part of a command word (spec R41, R42;
log entry 20). -/
def framed : List Byte → List HostEvent
  | [] => []
  | [b] => [.lone b]
  | op :: data :: rest => .command (wordOfBytes op data) :: framed rest

end Sys2Proof.Machine
end

