-- ==== Sys2Proof/Machine/Record.lean ====
section
/-! DEFINITION. The sticky marks (spec R33, R93): the model's record of a run that goes on after a stop. `step` answers a
refusal or a fault and no state; `record` is the state the spec says such a stop leaves, with the mark set. -/

namespace Sys2Proof.Machine

/-- What a stopped event does to the core and the host beside its command: a reset over the command still applies (spec
R93, R103, R106; log entry 12), and each read over it still gives the host a draw, the first of number `n` (spec R113). -/
def State.settle (s : State) (n : Nat) (e : HostEvent) : State :=
  (if hasReset e.accesses then s.applyReset else s).noteReads (drawnReadings s.source n e.accesses)

/-- The state after the next event, for the model's bookkeeping: the next state where there is one; after a refusal or a
fault the state as it was, the event presented and the mark set (spec R21, R33, R93). -/
def State.record (s : State) : State :=
  match s.input with
  | [] => s
  | e :: rest =>
    match step s with
    | .next t => t
    | .fault f => ((s.accept e rest).markFault (some f)).settle s.draws e
    | .refused r => ((s.accept e rest).markRefused { reason := r, position := s.position, unit := e }).settle s.draws e

end Sys2Proof.Machine
end

