-- ==== Sys2Proof/Machine/System.lean ====
section
/-! DEFINITION. N_INSTANCES independent cores (spec R4, R46, R100): a list of core states, each with its own host side and
its own source of free values. One core's refusal or fault is recorded in that core and stops no other. -/

namespace Sys2Proof.Machine

/-- A system of cores; the list's length is N_INSTANCES, which is at least 1 (spec R4, R100). -/
structure System where
  cores : List State
  some_core : 0 < cores.length
deriving DecidableEq, Repr

/-- `n` cores right after power-on, each by its own reset (spec R100, R105) and with a source of free values of its own
(log entry 25). -/
def System.powerOn (n : Nat) (impl : CrcImpl) (h : 0 < n) : System :=
  { cores := (List.range n).map (State.powerOn impl)
    some_core := by simpa using h }

/-- What the step of the core at place `j` answers, if there is a core: no other core takes part (spec R46, R100). -/
def System.outcomeAt (sys : System) (j : Nat) : Option (Host.Outcome State Fault Refusal) :=
  (sys.cores[j]?).map step

/-- The system after the core at place `j` has taken its next event: its next state, or, where it stops, its state with
the mark set (spec R33, R93); no other core is touched (spec R46, R100), and a place that holds no core changes nothing (log
entry 17). -/
def System.stepAt (sys : System) (j : Nat) : System :=
  { cores := sys.cores.modify j State.record
    some_core := by simpa using sys.some_core }

/-- An interleaving: events of the cores in the order of a schedule of places, past every stop (spec R46). -/
def System.runSchedule (sys : System) : List Nat → System
  | [] => sys
  | j :: js => (sys.stepAt j).runSchedule js

end Sys2Proof.Machine
end

