-- ==== Sys2Proof/Safety.lean ====
section
/-! DEFINITION. The terms claims are stated in: the state invariant (spec R35), a run without marks (spec R33), the order
of checks as the spec lists it (spec R92), and running several steps. -/

namespace Sys2Proof.Machine

/-- The invariant of spec R35 with R22: the phase code is never 0b11; IDLE exactly when all three keys are unset; in
KEYING and STREAMING all three hold values. -/
abbrev State.Inv (s : State) : Prop :=
  s.phase ≠ 0b11#2 ∧
  (s.phase = Phase.idle.code ↔ s.key0 = none ∧ s.key1 = none ∧ s.key2 = none) ∧
  (s.phase = Phase.keying.code ∨ s.phase = Phase.streaming.code →
    s.key0.isSome ∧ s.key1.isSome ∧ s.key2.isSome)

/-- No refused mark and no fault mark: the premise of every claim (spec R33). -/
abbrev State.Unmarked (s : State) : Prop := s.refusedMark = none ∧ s.faultMark = none

/-- The key registers hold `k` (spec R18). -/
abbrev State.HoldsKeys (s : State) (k : KeyState) : Prop :=
  s.key0 = some k.k0 ∧ s.key1 = some k.k1 ∧ s.key2 = some k.k2

/-- Check 2 of spec R92 on a whole word, from the spec's pseudocode of R52 and not from `decode`. -/
def decodeCheck (w : CmdWord) : Option Refusal :=
  if w >>> 8 = 0x0001#16 then (if w = 0x0100#16 then none else some .reservedInitData)
  else if w >>> 8 = 0x0002#16 ∨ w >>> 8 = 0x0003#16 then none
  else some .reservedOpcode

/-- Check 3 of spec R92 on a whole word that is an instruction: the table of spec R24. -/
def phaseCheck (w : CmdWord) (p : Phase) : Option Refusal :=
  match p with
  | .idle =>
    if w >>> 8 = 0x0002#16 then some .absorbBeforeInit
    else if w >>> 8 = 0x0003#16 then some .decryptBeforeInit
    else none
  | .keying => none
  | .streaming => if w >>> 8 = 0x0002#16 then some .absorbAfterDecrypt else none

/-- The admission of a command, checked in the order of spec R92: whole word, decode, phase. -/
def admission (e : HostEvent) (p : Phase) : Option Refusal :=
  match e with
  | .lone _ => some .truncated
  | .command w => (decodeCheck w).or (phaseCheck w p)
  | .during w _ => (decodeCheck w).or (phaseCheck w p)
  | .reset => none
  | .read _ => none

/-- The table of spec R24, a column per instruction: the phase a command leads to, or why it is refused; a reserved word
is refused in every phase (spec R92). -/
def phaseTable (i : Instr) (p : Phase) : Except Refusal Phase :=
  match i, p with
  | .init, _ => .ok .keying
  | .absorb _, .idle => .error .absorbBeforeInit
  | .absorb _, .keying => .ok .keying
  | .absorb _, .streaming => .error .absorbAfterDecrypt
  | .decrypt _, .idle => .error .decryptBeforeInit
  | .decrypt _, .keying => .ok .streaming
  | .decrypt _, .streaming => .ok .streaming
  | .reservedInitData _, _ => .error .reservedInitData
  | .reservedOp00 _, _ => .error .reservedOpcode
  | .reservedOp04 _, _ => .error .reservedOpcode
  | .reservedOp08 _, _ => .error .reservedOpcode
  | .reservedOp10 _, _ => .error .reservedOpcode
  | .reservedOp20 _, _ => .error .reservedOpcode
  | .reservedOp40 _, _ => .error .reservedOpcode
  | .reservedOp80 _, _ => .error .reservedOpcode

/-- No two cores of a system draw from one source of free values (log entry 25). -/
abbrev System.Apart (sys : System) : Prop := sys.cores.Pairwise (fun a b => a.source ≠ b.source)

/-- `n` steps, ending at the first stop: `Host.Core.run` of this core by its own name. -/
def run (n : Nat) (s : State) : Host.Outcome State Fault Refusal :=
  match n with
  | 0 => .next s
  | k + 1 =>
    match step s with
    | .next t => run k t
    | .fault f => .fault f
    | .refused r => .refused r

end Sys2Proof.Machine
end

