-- ==== Sys2Proof/Certificates/Slice0/Obligations.lean ====
section
/-! DEFINITION. The statements about the ZipCrypto stream cipher core. Each docstring names the rule of spec/ it
formalises. A next state written `{ s with … }` states the whole frame: every field not named is unchanged. The core has
no memory, no flags and no program counter (spec R27, R28, R36), so no frame names one. -/

open Sys2Proof Sys2Proof.Machine

/-! ### Encoding -/

/-- Every well-formed instruction's word decodes to it, with every operand at every value (derived: spec R51, R52). -/
def Obligations.EncodeThenDecode : Prop :=
  ∀ i : Instr, i.wf = true → decode (encode i) = i

/-- Every one of the 65536 words decodes to a well-formed instruction or reserved row whose word it is: decoding drops no
bit and has one meaning a word (derived: spec R51, R52). -/
def Obligations.DecodeThenEncode : Prop :=
  ∀ w : CmdWord, (decode w).wf = true ∧ encode (decode w) = w

/-- Spec R52: the decoder's five cases in order, and the count of 513 instruction words and 65023 reserved ones. -/
def Obligations.DecodeFollowsPseudocode : Prop :=
  (∀ w : CmdWord,
    (w.extractLsb' 8 8 = 0x01#8 → w.extractLsb' 0 8 = 0x00#8 → decode w = .init) ∧
    (w.extractLsb' 8 8 = 0x01#8 → w.extractLsb' 0 8 ≠ 0x00#8 →
      (decode w).isCommand = false ∧ ∀ s, exec (decode w) s = .refused .reservedInitData) ∧
    (w.extractLsb' 8 8 = 0x02#8 → decode w = .absorb (w.extractLsb' 0 8)) ∧
    (w.extractLsb' 8 8 = 0x03#8 → decode w = .decrypt (w.extractLsb' 0 8)) ∧
    (w.extractLsb' 8 8 ≠ 0x01#8 → w.extractLsb' 8 8 ≠ 0x02#8 → w.extractLsb' 8 8 ≠ 0x03#8 →
      (decode w).isCommand = false ∧ ∀ s, exec (decode w) s = .refused .reservedOpcode)) ∧
  ((Finset.range 65536).filter (fun n => (decode (BitVec.ofNat 16 n)).isCommand = true)).card = 513 ∧
  ((Finset.range 65536).filter (fun n => (decode (BitVec.ofNat 16 n)).isCommand = false)).card = 65023

/-- Spec R51: a word selects a row of the opcode map exactly when `(w & mask) == match`; the reserved INIT row excludes
0x0100. -/
def Obligations.OpcodeMapRowsSelect : Prop :=
  ∀ w : CmdWord,
    (decode w = .init ↔ w &&& 0xFFFF#16 = 0x0100#16) ∧
    ((∃ d, decode w = .reservedInitData d) ↔ w &&& 0xFF00#16 = 0x0100#16 ∧ w ≠ 0x0100#16) ∧
    ((∃ b, decode w = .absorb b) ↔ w &&& 0xFF00#16 = 0x0200#16) ∧
    ((∃ c, decode w = .decrypt c) ↔ w &&& 0xFF00#16 = 0x0300#16) ∧
    ((∃ x, decode w = .reservedOp00 x) ↔ w &&& 0xFF00#16 = 0x0000#16) ∧
    ((∃ x, decode w = .reservedOp04 x) ↔ w &&& 0xFC00#16 = 0x0400#16) ∧
    ((∃ x, decode w = .reservedOp08 x) ↔ w &&& 0xF800#16 = 0x0800#16) ∧
    ((∃ x, decode w = .reservedOp10 x) ↔ w &&& 0xF000#16 = 0x1000#16) ∧
    ((∃ x, decode w = .reservedOp20 x) ↔ w &&& 0xE000#16 = 0x2000#16) ∧
    ((∃ x, decode w = .reservedOp40 x) ↔ w &&& 0xC000#16 = 0x4000#16) ∧
    ((∃ x, decode w = .reservedOp80 x) ↔ w &&& 0x8000#16 = 0x8000#16)

/-- Sanity: words of the spec's decode table (derived: spec 95_test_vectors.md 2.8). -/
def Obligations.SampleWordsDecode : Prop :=
  decode 0b0000000100000000#16 = .init ∧ decode 0b0000001001110100#16 = .absorb 0x74#8 ∧
  decode 0b0000001110101011#16 = .decrypt 0xAB#8 ∧ decode 0b0000000111111111#16 = .reservedInitData 0xFF#8 ∧
  decode 0b0000000000000000#16 = .reservedOp00 0x00#8 ∧ decode 0b0000010000000000#16 = .reservedOp04 0#10 ∧
  decode 0b1111111111111111#16 = .reservedOp80 0x7FFF#15

/-- Spec R41: a byte transport carries each command word as its OP byte [15:8] and then its DATA byte [7:0], whatever
went before. -/
def Obligations.BytesCarryWordsOpcodeFirst : Prop :=
  ∀ (ws : List CmdWord) (more : List Byte),
    framed (ws.flatMap (fun w => [w.extractLsb' 8 8, w.extractLsb' 0 8]) ++ more) =
      ws.map HostEvent.command ++ framed more

/-- A byte left over is part of a command word, and no command: it is refused as Truncated, and nothing but the mark and
the host's side changes (derived: spec R42, R93; that it counts as a position is the model's choice, log entry 4). -/
def Obligations.PartialWordRefusedTruncated : Prop :=
  ∀ (b : Byte) (s : State) (rest : List HostEvent),
    framed [b] = [.lone b] ∧
    (s.refusedMark = none → s.input = .lone b :: rest →
      step s = .refused .truncated ∧
      s.record = { s with
        input := rest
        position := s.position + 1
        refusedMark := some { reason := .truncated, position := s.position, unit := .lone b } })

/-! ### A step runs the presented command -/

/-- A step runs the decoded instruction: when the host presents the word `w`, step is exec of what `w` decodes to, at the
state whose only change is that the host's word is taken and its position counted (derived: spec R37, R43, R52; the
host's fields are the model's, log entries 3 and 4). -/
def Obligations.StepRunsDecodedCommand : Prop :=
  ∀ (s : State) (w : CmdWord) (rest : List HostEvent),
    s.refusedMark = none → s.input = .command w :: rest →
    step s = exec (decode w) { s with input := rest, position := s.position + 1 }

/-- What the host places with withFetchWord is what the next step runs, as the decoder reads it (derived: spec R27, R52;
log entry 15). -/
def Obligations.PlacedWordRunsNext : Prop :=
  ∀ (s : State) (nbits w : Nat) (i : Instr),
    s.refusedMark = none → decodeTableWord nbits w = some i →
    step (s.withFetchWord nbits w) = exec i { s with position := s.position + 1 }

/-- With nothing presented the core holds all its state for any number of steps (derived: spec R102, R104; log entry
7). -/
def Obligations.IdleCoreHoldsState : Prop :=
  ∀ (s : State) (n : Nat), s.input = [] → run n s = .next s

/-! ### The instructions -/

/-- Spec R69: INIT, in every phase and from any state, loads the three seeds and enters KEYING; nothing else changes, and
nothing is emitted. -/
def Obligations.InitLoadsSeedsInEveryPhase : Prop :=
  (∀ s : State, exec .init s = .next { s with
    key0 := some 0x12345678#32, key1 := some 0x23456789#32, key2 := some 0x34567890#32, phase := 0b01#2 }) ∧
  decode 0x0100#16 = .init ∧
  (∀ d : Byte, d ≠ 0x00#8 → ∀ s, exec (decode (0x0100#16 ||| d.setWidth 16)) s = .refused .reservedInitData)

/-- Spec R71: ABSORB b, word 0x02NN, in KEYING makes the keys UPDATE of themselves and b, and changes nothing else; in
IDLE and in STREAMING it is refused by name. The worked example from the seeds with 't'. -/
def Obligations.AbsorbUpdatesKeysInKeying : Prop :=
  (∀ (s : State) (b : Byte),
    (∀ k, s.phase = 0b01#2 → s.HoldsKeys k → exec (.absorb b) s = .next { s with
      key0 := some (update k b).k0, key1 := some (update k b).k1, key2 := some (update k b).k2 }) ∧
    (s.phase = 0b00#2 → exec (.absorb b) s = .refused .absorbBeforeInit) ∧
    (s.phase = 0b10#2 → exec (.absorb b) s = .refused .absorbAfterDecrypt) ∧
    decode (BitVec.ofNat 16 (0x0200 + b.toNat)) = .absorb b) ∧
  update { k0 := 0x12345678#32, k1 := 0x23456789#32, k2 := 0x34567890#32 } 0x74#8 =
    { k0 := 0x09A4787D#32, k1 := 0xEA2E201F#32, k2 := 0xB0E4CE5A#32 }

/-- Spec R79: DECRYPT c, word 0x03NN, in KEYING and in STREAMING emits p = c ^ KS(key[2]), makes the keys UPDATE of
themselves and p, and enters STREAMING, changing nothing else; in IDLE it is refused by name. The worked example. -/
def Obligations.DecryptEmitsPlaintext : Prop :=
  (∀ (s : State) (c : Byte),
    (∀ k, s.phase = 0b01#2 ∨ s.phase = 0b10#2 → s.HoldsKeys k → exec (.decrypt c) s = .next { s with
      key0 := some (update k (c ^^^ keystream k.k2)).k0
      key1 := some (update k (c ^^^ keystream k.k2)).k1
      key2 := some (update k (c ^^^ keystream k.k2)).k2
      phase := 0b10#2
      response := s.response ++ [c ^^^ keystream k.k2] }) ∧
    (s.phase = 0b00#2 → exec (.decrypt c) s = .refused .decryptBeforeInit) ∧
    decode (BitVec.ofNat 16 (0x0300 + c.toNat)) = .decrypt c) ∧
  keystream 0x34567890#32 = 0xAB#8 ∧
  update { k0 := 0x12345678#32, k1 := 0x23456789#32, k2 := 0x34567890#32 } 0xAB#8 =
    { k0 := 0x1FC8B738#32, k1 := 0xBFE28AC6#32, k2 := 0xABE56B21#32 }

/-- ABSORB and DECRYPT where their reads go wrong, in states no run reaches: phase code 0b11 faults BadPhase (the model's
choice, log entry 9), and an unset key in an admitted phase faults UnsetKeyRead (derived: spec R21, R35; log entry
10). -/
def Obligations.CommandsFaultOnBadReads : Prop :=
  ∀ (s : State) (b : Byte),
    (s.phase = 0b11#2 → exec (.absorb b) s = .fault .badPhase ∧ exec (.decrypt b) s = .fault .badPhase) ∧
    (∀ i : KeyIndex, s.key i = none →
      (s.phase = 0b01#2 → exec (.absorb b) s = .fault .unsetKeyRead) ∧
      (s.phase = 0b01#2 ∨ s.phase = 0b10#2 → exec (.decrypt b) s = .fault .unsetKeyRead))

/-- A word with OP 0x00 or OP 0x04 to 0xFF is refused as ReservedOpcode in every phase: nothing changes but the refused
mark and the host's side, and no byte is emitted. Each of the seven rows stops so (derived: spec R53; the position in the
mark and the unit it holds are the model's choice, log entry 4). -/
def Obligations.ReservedOpcodesRefused : Prop :=
  (∀ (w : CmdWord) (s : State) (rest : List HostEvent),
    w.extractLsb' 8 8 = 0x00#8 ∨ 0x04#8 ≤ w.extractLsb' 8 8 →
    s.refusedMark = none → s.input = .command w :: rest →
    step s = .refused .reservedOpcode ∧
    s.record = { s with
      input := rest
      position := s.position + 1
      refusedMark := some { reason := .reservedOpcode, position := s.position, unit := .command w } }) ∧
  (∀ s : State,
    (∀ x, exec (.reservedOp00 x) s = .refused .reservedOpcode) ∧
    (∀ x, exec (.reservedOp04 x) s = .refused .reservedOpcode) ∧
    (∀ x, exec (.reservedOp08 x) s = .refused .reservedOpcode) ∧
    (∀ x, exec (.reservedOp10 x) s = .refused .reservedOpcode) ∧
    (∀ x, exec (.reservedOp20 x) s = .refused .reservedOpcode) ∧
    (∀ x, exec (.reservedOp40 x) s = .refused .reservedOpcode) ∧
    (∀ x, exec (.reservedOp80 x) s = .refused .reservedOpcode))

/-- A word with OP 0x01 and DATA not 0x00 is refused as ReservedInitData, with the same effect as a reserved opcode
(derived: spec R54; the position in the mark and the unit it holds are the model's choice, log entry 4). -/
def Obligations.InitWithDataRefused : Prop :=
  (∀ (w : CmdWord) (s : State) (rest : List HostEvent),
    w.extractLsb' 8 8 = 0x01#8 → w.extractLsb' 0 8 ≠ 0x00#8 →
    s.refusedMark = none → s.input = .command w :: rest →
    step s = .refused .reservedInitData ∧
    s.record = { s with
      input := rest
      position := s.position + 1
      refusedMark := some { reason := .reservedInitData, position := s.position, unit := .command w } }) ∧
  (∀ (d : Byte) (s : State), exec (.reservedInitData d) s = .refused .reservedInitData)

/-! ### Phases, checks, marks -/

/-- The phase table. A command in each phase leads to the phase the table gives, or is refused with the table's reason,
changing nothing but the refused mark and the host's side; reset leads to IDLE from every phase; and no command leads from
STREAMING back to IDLE (derived: spec R24; the position in the mark and the unit it holds are the model's choice, log entry
4). -/
def Obligations.PhaseChangesOnlyAsTabled : Prop :=
  (∀ (s : State) (p : Phase) (w : CmdWord) (rest : List HostEvent),
    s.Inv → s.phase = p.code → s.refusedMark = none → s.input = .command w :: rest →
    (∀ q, phaseTable (decode w) p = .ok q → ∃ t, step s = .next t ∧ t.phase = q.code) ∧
    (∀ r, phaseTable (decode w) p = .error r →
      step s = .refused r ∧
      s.record = { s with
        input := rest
        position := s.position + 1
        refusedMark := some { reason := r, position := s.position, unit := .command w } })) ∧
  (∀ (s : State) (rest : List HostEvent), s.input = .reset :: rest → ∃ t, step s = .next t ∧ t.phase = 0b00#2) ∧
  (∀ (s t : State) (w : CmdWord) (rest : List HostEvent),
    s.phase = 0b10#2 → s.input = .command w :: rest → step s = .next t → t.phase ≠ 0b00#2)

/-- Spec R92: whole word, then decode, then phase; the first check that fails gives the one reason, and a unit that
passes all three is performed. -/
def Obligations.ChecksRunInOrder : Prop :=
  ∀ (s : State) (p : Phase) (e : HostEvent) (rest : List HostEvent),
    s.Inv → s.phase = p.code → s.refusedMark = none → s.input = e :: rest →
    (∃ w, e = .command w) ∨ (∃ b, e = .lone b) →
    (∀ r, step s = .refused r ↔ admission e p = some r) ∧
    (admission e p = none → ∃ t, step s = .next t)

/-- A refused command changes no key, no phase and no response; it sets the refused mark with its reason and position, or
keeps the first one if the mark is set; and the mark is never cleared, reset included (derived: spec R93, R113; the
position's numbering and the unit in the mark, the draws' numbering and source, the list of readings, and that a read of an
unset key over the command is a draw and records no fault, R113 over R21, are the model's choice, log entries 4, 5, 6, 13
and 25). A refused command with a reset over it is in RefusedCommandUnderResetStillResets. -/
def Obligations.RefusedCommandHasNoStep : Prop :=
  (∀ (s : State) (e : HostEvent) (rest : List HostEvent) (r : Refusal),
    s.input = e :: rest → .reset ∉ e.accesses → step s = .refused r →
    s.record = { s with
      input := rest
      position := s.position + e.commands
      draws := s.draws + e.draws
      reads := s.reads ++ drawnReadings s.source s.draws e.accesses
      refusedMark := match s.refusedMark with
        | some m => some m
        | none => some { reason := r, position := s.position, unit := e } }) ∧
  (∀ (s : State) (m : RefusedMark), s.refusedMark = some m → s.record.refusedMark = some m)

/-- A reset that overlaps a command the core refuses applies either way, whichever the free choice is, and the reads over
that command give their draws; the mark is set only if the command was considered, not if it was lost (derived: spec R93,
R106, R113; the order of mark and reset is the model's choice, log entry 12, as are the mark's position and unit and that a
lost command counts as a position, log entry 4, the draws' numbering and source, log entries 5 and 25, the list of readings,
log entry 6, that a read of an unset key beside the reset records no fault, log entry 13, and that several resets share one
free value and every read beside them is a draw, log entry 26). -/
def Obligations.RefusedCommandUnderResetStillResets : Prop :=
  ∀ (s : State) (w : CmdWord) (as : List Access) (rest : List HostEvent) (r : Refusal),
    s.input = .during w as :: rest → .reset ∈ as → s.refusedMark = none →
    exec (decode w) (s.accept (.during w as) rest) = .refused r →
    s.record = { s with
      key0 := none
      key1 := none
      key2 := none
      phase := 0b00#2
      input := rest
      position := s.position + 1
      draws := s.draws + as.length
      reads := s.reads ++ drawnReadings s.source s.draws as
      refusedMark := if Config.overlapCompletes s.source s.draws = true
        then some { reason := r, position := s.position, unit := .during w as } else none }

/-- Once the refused mark is set no command or partial word is performed: each is refused with the first reason, and
leaves the marked state as it was, a command that reads overlap included; a reset still applies, over a command too,
whichever the free choice is; and a read of an output still shows it, or records its fault (derived: 95_test_vectors.md
2.9, last row, and spec R21, R26, R93, R103, R106, R113; the model's inferences and choices, log entries 4, 5, 6, 8, 12,
13, 23, 25, 26, one free value of the instance's source for several resets over one command, and 27). -/
def Obligations.MarkedRunPerformsNoCommand : Prop :=
  ∀ (s : State) (m : RefusedMark) (rest : List HostEvent), s.refusedMark = some m →
    (∀ e, s.input = e :: rest → (∃ w, e = .command w) ∨ (∃ b, e = .lone b) →
      step s = .refused m.reason ∧ s.record = { s with input := rest, position := s.position + 1 }) ∧
    (s.input = .reset :: rest → ∃ t, step s = .next t ∧ t.phase = 0b00#2 ∧ t.refusedMark = some m) ∧
    (∀ p : Phase, s.input = .read .phase :: rest → s.phase = p.code →
      ∃ t, step s = .next t ∧ t.reads = s.reads ++ [.phase p.code]) ∧
    (∀ i v, s.input = .read (.key i) :: rest → s.key i = some v →
      ∃ t, step s = .next t ∧ t.reads = s.reads ++ [.key i v]) ∧
    (∀ i, s.input = .read (.key i) :: rest → s.key i = none →
      ∃ t, step s = .next t ∧ t.reads = s.reads ∧ t.faultMark.isSome) ∧
    (∀ w as, s.input = .during w as :: rest → .reset ∉ as →
      step s = .refused m.reason ∧
      s.record = { s with
        input := rest
        position := s.position + 1
        draws := s.draws + as.length
        reads := s.reads ++ drawnReadings s.source s.draws as }) ∧
    (∀ w as, s.input = .during w as :: rest → .reset ∈ as →
      (Config.overlapCompletes s.source s.draws = true → step s = .refused m.reason) ∧
      (Config.overlapCompletes s.source s.draws = false → step s = .next s.record) ∧
      s.record = { s with
        key0 := none
        key1 := none
        key2 := none
        phase := 0b00#2
        input := rest
        position := s.position + 1
        draws := s.draws + as.length
        reads := s.reads ++ drawnReadings s.source s.draws as })

/-- The marks are sticky. No event, reset included, clears or changes a mark that is set; a step that answers a next state
leaves the refused mark as it was, and the fault mark too, but that a read of an output between commands may set it where
it is not set (derived: spec R21, R22, R26, R33, R93; that the fault mark keeps its first reason after a later fault and
that a faulting read goes on are the model's inferences, log entries 23 and 27, and that a read of an unset key over a
command is a draw and sets no mark, R113 over R21, is its choice, log entry 13). -/
def Obligations.MarksAreSticky : Prop :=
  ∀ s : State,
    (∀ m, s.refusedMark = some m → s.record.refusedMark = some m) ∧
    (∀ f, s.faultMark = some f → s.record.faultMark = some f) ∧
    (∀ t, step s = .next t → t.refusedMark = s.refusedMark ∧
      (t.faultMark = s.faultMark ∨ s.faultMark = none ∧ ∃ o rest, s.input = .read o :: rest))

/-- The number each outcome reason has, for use in a model (derived: the table of spec R91). -/
def Obligations.OutcomeReasonsAreNumbered : Prop :=
  Refusal.reservedOpcode.code = some 1 ∧ Refusal.reservedInitData.code = some 2 ∧
  Refusal.absorbBeforeInit.code = some 3 ∧ Refusal.absorbAfterDecrypt.code = some 4 ∧
  Refusal.decryptBeforeInit.code = some 5 ∧ Refusal.truncated.code = some 6 ∧
  Fault.unsetKeyRead.code = 16 ∧ Fault.badPhase.code = 17

/-! ### Reset, invariant, whole-machine rules -/

/-- Spec R105: at power-on the keys are unset, the phase is IDLE, the response stream is empty and no mark is set. -/
def Obligations.PowerOnState : Prop :=
  State.reset.key0 = none ∧ State.reset.key1 = none ∧ State.reset.key2 = none ∧ State.reset.phase = 0b00#2 ∧
  State.reset.response = [] ∧ State.reset.refusedMark = none ∧ State.reset.faultMark = none

/-- Spec R103: reset, in every phase and at any time between commands, makes the three keys unset and the phase IDLE, and
changes nothing else: the response stream and the marks stay. -/
def Obligations.ResetUnsetsKeysAndIdles : Prop :=
  ∀ (s : State) (rest : List HostEvent), s.input = .reset :: rest →
    step s = .next { s with key0 := none, key1 := none, key2 := none, phase := 0b00#2, input := rest }

/-- The state right after power-on meets the invariant of spec R35 (derived). -/
def Obligations.PowerOnMeetsInvariant : Prop := State.reset.Inv

/-- The invariant of spec R35 and R22 is kept by every step, from every state that meets it: the phase is never 0b11, it
is IDLE exactly when all three keys are unset, and in KEYING and STREAMING all three hold values (derived). -/
def Obligations.StepKeepsInvariant : Prop :=
  ∀ s t : State, s.Inv → step s = .next t → t.Inv

/-- The invariant also outlives the stops: whatever is presented, refused and faulting events and overlapping resets
included, the recorded run stays in it (derived: spec R35, R93, R106). -/
def Obligations.RecordedRunKeepsInvariant : Prop :=
  ∀ (s : State) (n : Nat), s.Inv → (State.record^[n] s).Inv

/-- Under the invariant no step stops with a fault: no command, reset or read. The only fault an event can record is the
UnsetKeyRead of a key output read between commands while that key is unset, in IDLE (derived: spec R21, R35, R89; that a
faulting read goes on is the model's inference, log entry 27, and that a read over a command is a draw and records no fault,
while the key is unset too, is its choice of R113 over R21, log entry 13). -/
def Obligations.OnlyUnsetOutputReadsFault : Prop :=
  ∀ s : State, s.Inv →
    (∀ f, step s ≠ .fault f) ∧
    ∀ f, s.faultMark = none → s.record.faultMark = some f →
      f = .unsetKeyRead ∧ s.phase = 0b00#2 ∧ ∃ i rest, s.input = .read (.key i) :: rest ∧ s.key i = none

/-- Spec R19: what a step may write to the keys. INIT writes the seeds; ABSORB b writes UPDATE of the keys and b, once;
DECRYPT c writes UPDATE of the keys and the plaintext byte, once; reset unsets them; a read, and a step with nothing
presented, write nothing. No host-chosen value is written. -/
def Obligations.KeyWritesAreSeedsOrUpdate : Prop :=
  ∀ s t : State, step s = .next t →
    match s.input with
    | [] => t.key0 = s.key0 ∧ t.key1 = s.key1 ∧ t.key2 = s.key2
    | .read _ :: _ => t.key0 = s.key0 ∧ t.key1 = s.key1 ∧ t.key2 = s.key2
    | .reset :: _ => t.key0 = none ∧ t.key1 = none ∧ t.key2 = none
    | .lone _ :: _ => False
    | .during w as :: _ =>
      if .reset ∈ as then t.key0 = none ∧ t.key1 = none ∧ t.key2 = none
      else
        (decode w = .init ∧ t.HoldsKeys { k0 := 0x12345678#32, k1 := 0x23456789#32, k2 := 0x34567890#32 }) ∨
        (∃ b k, decode w = .absorb b ∧ s.HoldsKeys k ∧ t.HoldsKeys (update k b)) ∨
        (∃ c k, decode w = .decrypt c ∧ s.HoldsKeys k ∧ t.HoldsKeys (update k (c ^^^ keystream k.k2)))
    | .command w :: _ =>
      (decode w = .init ∧ t.HoldsKeys { k0 := 0x12345678#32, k1 := 0x23456789#32, k2 := 0x34567890#32 }) ∨
      (∃ b k, decode w = .absorb b ∧ s.HoldsKeys k ∧ t.HoldsKeys (update k b)) ∨
      (∃ c k, decode w = .decrypt c ∧ s.HoldsKeys k ∧ t.HoldsKeys (update k (c ^^^ keystream k.k2)))

/-- Spec R25: each DECRYPT appends exactly one byte, its plaintext; INIT, ABSORB, reset and reads append nothing, and no
step removes or reorders a byte. -/
def Obligations.ResponseGrowsByDecryptOnly : Prop :=
  (∀ s t : State, step s = .next t →
    t.response = s.response ∨
    ∃ c k, s.HoldsKeys k ∧ t.response = s.response ++ [c ^^^ keystream k.k2] ∧
      ∃ rest, s.input = .command (encode (.decrypt c)) :: rest ∨
        ∃ as, s.input = .during (encode (.decrypt c)) as :: rest) ∧
  (∀ (s t : State) (c : Byte) (rest : List HostEvent),
    (s.input = .command (encode (.decrypt c)) :: rest ∨
      ∃ as, .reset ∉ as ∧ s.input = .during (encode (.decrypt c)) as :: rest) →
    step s = .next t → t.response.length = s.response.length + 1)

/-! ### The observation outputs, overlaps -/

/-- A read of key_i_o between commands gives the host the register's value, and of phase_o the phase code, and changes
nothing of the core; a read of an unset key gives no value and records UnsetKeyRead, unless a fault is recorded already, and
the core goes on (derived: spec R9, R21, R26; the host's list of readings is the model's choice, log entry 6, that the first
fault is kept and that the core goes on after it are its inferences, log entries 23 and 27). -/
def Obligations.OutputsShowRegisters : Prop :=
  ∀ (s : State) (rest : List HostEvent),
    (∀ i v, s.input = .read (.key i) :: rest → s.key i = some v →
      step s = .next { s with input := rest, reads := s.reads ++ [.key i v] }) ∧
    (∀ p : Phase, s.input = .read .phase :: rest → s.phase = p.code →
      step s = .next { s with input := rest, reads := s.reads ++ [.phase p.code] }) ∧
    (∀ i, s.input = .read (.key i) :: rest → s.key i = none →
      step s = .next { s with
        input := rest
        faultMark := match s.faultMark with
          | some f => some f
          | none => some .unsetKeyRead })

/-- The phase codes, and the fault of a phase_o that shows 0b11, whatever the marks: it is recorded, and the host has the
code (derived: spec R9, R22; that the first fault is kept and that the core goes on are the model's inferences, log entries
23 and 27). -/
def Obligations.PhaseCodesAndBadPhase : Prop :=
  Phase.idle.code = 0b00#2 ∧ Phase.keying.code = 0b01#2 ∧ Phase.streaming.code = 0b10#2 ∧
  ∀ (s : State) (rest : List HostEvent), s.input = .read .phase :: rest → s.phase = 0b11#2 →
    step s = .next { s with
      input := rest
      reads := s.reads ++ [.phase 0b11#2]
      faultMark := match s.faultMark with
        | some f => some f
        | none => some .badPhase }

/-- Resets that overlap a command, with any reads beside them, have one of two outcomes, whichever the free choice is: the
command completes and then reset applies, or it is lost. The states differ in the response stream only, and the reads give
their draws in both (derived: spec R106, R113; the choice's numbering, the host's fields, that a read of an unset key beside
the reset is a draw and records no fault, and that several resets share one choice, are the model's, log entries 3 to 6, 13,
25 and 26). -/
def Obligations.OverlappingResetHasTwoOutcomes : Prop :=
  ∀ (s t : State) (w : CmdWord) (as : List Access) (rest : List HostEvent),
    s.input = .during w as :: rest → .reset ∈ as → s.refusedMark = none →
    exec (decode w) (s.accept (.during w as) rest) = .next t →
    step s = (if Config.overlapCompletes s.source s.draws = true
      then .next (t.applyReset.noteReads (drawnReadings s.source s.draws as))
      else .next ((s.accept (.during w as) rest).applyReset.noteReads (drawnReadings s.source s.draws as))) ∧
    t.applyReset = { (s.accept (.during w as) rest).applyReset with response := t.response } ∧
    t.applyReset.key0 = none ∧ t.applyReset.key1 = none ∧ t.applyReset.key2 = none ∧ t.applyReset.phase = 0b00#2

/-- Reads that overlap a command, any number of them, each give the host a draw, whatever the draws are; the command has
its own effect, and a refused or faulting command stops so (derived: spec R113; the draws' numbering and source, the list of
readings, and that it is a draw while the key is unset too, are the model's choice, log entries 5, 6, 13 and 25). -/
def Obligations.OverlappingReadsAreDrawn : Prop :=
  (∀ source n, drawnReadings source n [] = []) ∧
  (∀ source n i as, drawnReadings source n (.read (.key i) :: as) =
    .key i (Config.drawKey source n) :: drawnReadings source (n + 1) as) ∧
  (∀ source n as, drawnReadings source n (.read .phase :: as) =
    .phase (Config.drawPhase source n) :: drawnReadings source (n + 1) as) ∧
  (∀ source n as, drawnReadings source n (.reset :: as) = drawnReadings source (n + 1) as) ∧
  ∀ (s : State) (w : CmdWord) (as : List Access) (rest : List HostEvent),
    s.input = .during w as :: rest → .reset ∉ as → s.refusedMark = none →
    (drawnReadings s.source s.draws as).length = as.length ∧
    (∀ t, exec (decode w) (s.accept (.during w as) rest) = .next t →
      step s = .next { t with reads := s.reads ++ drawnReadings s.source s.draws as }) ∧
    (∀ r, exec (decode w) (s.accept (.during w as) rest) = .refused r → step s = .refused r) ∧
    (∀ f, exec (decode w) (s.accept (.during w as) rest) = .fault f → step s = .fault f)

/-! ### The pure functions -/

/-- Spec R61: CRCSTEP by its formula; the table's generator; the printed table is the generated one; the bitwise circuit
computes the same function. -/
def Obligations.CrcStepTableAndBitwise : Prop :=
  (∀ (acc : Key) (b : Byte), crcStep acc b = (acc >>> 8) ^^^ crcEntry ((acc ^^^ b.setWidth 32).setWidth 8)) ∧
  (∀ n : Byte, crcEntry n =
    (fun c : Key => if c.getLsbD 0 = true then (c >>> 1) ^^^ 0xEDB88320#32 else c >>> 1)^[8] (n.setWidth 32)) ∧
  crcTable.length = 256 ∧ (∀ n : Byte, crcTable[n.toNat]? = some (crcEntry n)) ∧
  (∀ (acc : Key) (b : Byte), crcStepBitwise acc b = crcStep acc b) ∧
  crcStep 0x12345678#32 0x74#8 = 0x09A4787D#32

/-- Spec R73: the CRC-32 check value of "123456789" and three single table entries. -/
def Obligations.CrcCheckValues : Prop :=
  ~~~ ([0x31#8, 0x32#8, 0x33#8, 0x34#8, 0x35#8, 0x36#8, 0x37#8, 0x38#8, 0x39#8].foldl crcStep 0xFFFFFFFF#32) =
    0xCBF43926#32 ∧
  crcEntry 0x01#8 = 0x77073096#32 ∧ crcEntry 0x80#8 = 0xEDB88320#32 ∧ crcEntry 0xFF#8 = 0x2D02EF8D#32

/-- The cipher's complements cancel the standard routine's: steps 1 and 4 written with CRC32 are the bare CRCSTEP
(derived: spec R62, R63). -/
def Obligations.ComplementsCancel : Prop :=
  ∀ (k : KeyState) (b : Byte),
    (update k b).k0 = ~~~ (crc32 (~~~ k.k0) b) ∧
    (update k b).k2 = ~~~ (crc32 (~~~ k.k2) (((update k b).k1 >>> 24).setWidth 8))

/-- For each byte, CRCSTEP permutes the 32-bit values (derived: spec R64). -/
def Obligations.CrcStepIsBijective : Prop :=
  ∀ b : Byte, Function.Bijective (fun acc : Key => crcStep acc b)

/-- Spec R65: UPDATE's four steps in order, step 2 computed exactly and reduced mod 2^32: it reads the key_0 of step 1,
and step 4 reads the high byte of the key_1 of step 2. -/
def Obligations.UpdateIsFourOrderedSteps : Prop :=
  ∀ (k : KeyState) (b : Byte),
    (update k b).k0 = crcStep k.k0 b ∧
    (update k b).k1.toNat = ((k.k1.toNat + (crcStep k.k0 b).toNat % 256) * 134775813 + 1) % 2 ^ 32 ∧
    (update k b).k2 = crcStep k.k2 (BitVec.ofNat 8 ((update k b).k1.toNat / 2 ^ 24))

/-- For each byte, UPDATE permutes the key states (derived: spec R67). -/
def Obligations.UpdateIsBijective : Prop :=
  ∀ b : Byte, Function.Bijective (fun k : KeyState => update k b)

/-- Spec R75: KS by its formula, with the 32-bit product exact. The worked example. -/
def Obligations.KeystreamFormula : Prop :=
  (∀ k2 : Key,
    (keystream k2).toNat =
      ((k2 ||| 2#32).toNat % 2 ^ 16) * (((k2 ||| 2#32).toNat % 2 ^ 16) ^^^ 1) / 2 ^ 8 % 2 ^ 8 ∧
    ((k2 ||| 2#32).toNat % 2 ^ 16) * (((k2 ||| 2#32).toNat % 2 ^ 16) ^^^ 1) ≤ 0xFFFD0002) ∧
  keystream 0x34567890#32 = 0xAB#8

/-- KS depends on bits [15:2] of key_2 only (derived: the first sentence of spec R76). -/
def Obligations.KeystreamReadsBits15To2 : Prop :=
  ∀ a b : Key, a.extractLsb' 2 14 = b.extractLsb' 2 14 → keystream a = keystream b

/-- The intermediate's width cannot be observed: any truncation to 16 bits or more, and any product width of 16 bits or
more, or none, gives the same byte (derived: spec R77). -/
def Obligations.KeystreamWidthUnobservable : Prop :=
  ∀ (k2 : Key) (W W' : Nat), 16 ≤ W → 16 ≤ W' →
    (keystream k2).toNat =
      ((((k2.toNat ||| 2) % 2 ^ W) * (((k2.toNat ||| 2) % 2 ^ W) ^^^ 1)) % 2 ^ W') / 2 ^ 8 % 2 ^ 8 ∧
    (keystream k2).toNat =
      (((k2.toNat ||| 2) % 2 ^ W) * (((k2.toNat ||| 2) % 2 ^ W) ^^^ 1)) / 2 ^ 8 % 2 ^ 8

/-- Spec R80: the byte fed back is the plaintext emitted, never the ciphertext; after init three `decrypt 0x00` emit
[0xAB, 0xDB, 0x04], and would emit [0xAB, 0x1A, 0xBF] if the ciphertext were fed back. -/
def Obligations.FeedbackIsPlaintext : Prop :=
  (∀ (s : State) (c : Byte) (k : KeyState), s.phase = 0b01#2 ∨ s.phase = 0b10#2 → s.HoldsKeys k →
    ∃ t p, exec (.decrypt c) s = .next t ∧ t.response = s.response ++ [p] ∧ t.HoldsKeys (update k p)) ∧
  (decBytes seed [0x00#8, 0x00#8, 0x00#8]).2 = [0xAB#8, 0xDB#8, 0x04#8] ∧
  [keystream seed.k2, keystream (update seed 0x00#8).k2, keystream (update (update seed 0x00#8) 0x00#8).k2] =
    [0xAB#8, 0x1A#8, 0xBF#8]

/-- Sanity: the password "test", its reversal of order, and the repeated output that spec R85 gives (derived: spec
95_test_vectors.md 1.2, 1.5, 2.5). -/
def Obligations.KnownAnswers : Prop :=
  passwordKeys [0x74#8, 0x65#8, 0x73#8, 0x74#8] =
    { k0 := 0x7712F9DE#32, k1 := 0x485AFD7B#32, k2 := 0x5DED1E32#32 } ∧
  passwordKeys [0x65#8, 0x74#8] ≠ passwordKeys [0x74#8, 0x65#8] ∧
  (decBytes seed [0x07#8, 0x07#8]).2 = [0xAC#8, 0xAC#8]

/-! ### Programs the host presents -/

/-- A chunk of m ciphertext bytes, presented as m DECRYPTs to a core that holds keys in KEYING or STREAMING, is
decrypted as DEC says, in m steps: the keys are DEC's, the bytes emitted are DEC's, of the chunk's length, and nothing
else changes but the host's side; an empty chunk changes nothing, the phase included (derived: spec R82; that each command
counts as a position is the model's choice, log entry 4). -/
def Obligations.ChunkDecryptsAsDec : Prop :=
  (∀ k, decBytes k [] = (k, [])) ∧
  (∀ (k : KeyState) (c : Byte) (cs : List Byte), decBytes k (c :: cs) =
    ((decBytes (update k (c ^^^ keystream k.k2)) cs).1,
      (c ^^^ keystream k.k2) :: (decBytes (update k (c ^^^ keystream k.k2)) cs).2)) ∧
  ∀ (cs : List Byte) (s : State) (k : KeyState) (rest : List HostEvent),
    s.refusedMark = none → s.HoldsKeys k → s.phase = 0b01#2 ∨ s.phase = 0b10#2 →
    s.input = presented (decryptChunk cs) ++ rest →
    (decBytes k cs).2.length = cs.length ∧
    run cs.length s = .next { s with
      key0 := some (decBytes k cs).1.k0
      key1 := some (decBytes k cs).1.k1
      key2 := some (decBytes k cs).1.k2
      phase := if cs = [] then s.phase else 0b10#2
      response := s.response ++ (decBytes k cs).2
      input := rest
      position := s.position + cs.length }

/-- `open p` from any state without a refused mark, in any phase, leaves the fold of UPDATE over the password from the
seeds, in KEYING, and emits nothing; the empty password leaves the seeds (derived: spec R60, R70, R107; that each command
counts as a position is the model's choice, log entry 4). -/
def Obligations.OpenFoldsPassword : Prop :=
  passwordKeys [] = { k0 := 0x12345678#32, k1 := 0x23456789#32, k2 := 0x34567890#32 } ∧
  (∀ (p : List Byte) (b : Byte), passwordKeys (p ++ [b]) = update (passwordKeys p) b) ∧
  ∀ (p : List Byte) (s : State) (rest : List HostEvent),
    s.refusedMark = none → s.input = presented (openMacro p) ++ rest →
    run (p.length + 1) s = .next { s with
      key0 := some (passwordKeys p).k0
      key1 := some (passwordKeys p).k1
      key2 := some (passwordKeys p).k2
      phase := 0b01#2
      input := rest
      position := s.position + (p.length + 1) }

/-- Chunk boundaries cannot be observed: any partition of a ciphertext into consecutive chunks, decrypted in order, gives
the keys and the concatenated plaintext of the whole (derived: spec R83). -/
def Obligations.SplittingUnobservable : Prop :=
  ∀ (k : KeyState) (chunks : List (List Byte)),
    decBytes k chunks.flatten =
      chunks.foldl (fun acc c => ((decBytes acc.1 c).1, acc.2 ++ (decBytes acc.1 c).2)) (k, [])

/-- The round trip on the machine: whatever the state before, presenting `open p` and then the test-bench encryptor's
ciphertext of a message from K(p) makes the core emit the message, and leaves the encryptor's keys (derived: spec R88). -/
def Obligations.EncryptedMessageRoundTrips : Prop :=
  ∀ (p m : List Byte) (s : State) (rest : List HostEvent), s.refusedMark = none →
    s.input = presented (openMacro p ++ decryptChunk (encBytes (passwordKeys p) m).2) ++ rest →
    ∃ t, run (p.length + 1 + m.length) s = .next t ∧ t.response = s.response ++ m ∧
      t.HoldsKeys (encBytes (passwordKeys p) m).1 ∧ t.input = rest

/-- INIT forgets: two cores in any states and of any CRC_IMPL, given the same events from an INIT on and the same free
values, end with the same keys and phase, emit the same bytes, give the host the same readings, record the same fault if
they had the same fault mark, and are refused alike; neither stops with a fault. Nothing of the old key state survives
(derived: spec R16, R69, R84; the free values' source and counter, the list of readings and what accesses over a command do
are the model's choice, log entries 5, 6, 13, 25 and 26, and how a faulting read is recorded its inference, log entries 23
and 27). -/
def Obligations.InitForgetsOldKeys : Prop :=
  ∀ (n : Nat) (a b : State) (rest : List HostEvent),
    a.input = .command 0x0100#16 :: rest → b.input = a.input → b.draws = a.draws → b.source = a.source →
    a.refusedMark = none → b.refusedMark = none →
    (∀ t, run (n + 1) a = .next t → ∃ u emitted readings, run (n + 1) b = .next u ∧
      u.key0 = t.key0 ∧ u.key1 = t.key1 ∧ u.key2 = t.key2 ∧ u.phase = t.phase ∧
      t.response = a.response ++ emitted ∧ u.response = b.response ++ emitted ∧
      t.reads = a.reads ++ readings ∧ u.reads = b.reads ++ readings ∧
      (b.faultMark = a.faultMark → u.faultMark = t.faultMark)) ∧
    (∀ r, run (n + 1) a = .refused r → run (n + 1) b = .refused r) ∧
    (∀ f, run (n + 1) a ≠ .fault f)

/-- Instances share no state: in any interleaving, of cores that stop included, each core ends as it does alone. Its
recorded state is that of its own events taken alone; where its own run of as many steps goes through, it ends in that
run's state; and where its own run is refused or faults, it carries the mark of that stop (derived: spec R33, R46, R100;
that a place without a core changes nothing is the model's choice, log entry 17). -/
def Obligations.InstancesRunAsAlone : Prop :=
  ∀ (sys : System) (schedule : List Nat) (j : Nat),
    (sys.runSchedule schedule).cores.length = sys.cores.length ∧
    (sys.runSchedule schedule).cores[j]? = (sys.cores[j]?).map (State.record^[schedule.count j]) ∧
    ∀ s, sys.cores[j]? = some s →
      (∀ t, run (schedule.count j) s = .next t → (sys.runSchedule schedule).cores[j]? = some t) ∧
      (∀ r, run (schedule.count j) s = .refused r → ∃ t m, (sys.runSchedule schedule).cores[j]? = some t ∧
        t.refusedMark = some m ∧ m.reason = r) ∧
      (∀ f, run (schedule.count j) s = .fault f → ∃ t, (sys.runSchedule schedule).cores[j]? = some t ∧
        t.faultMark.isSome)

/-- One core's event touches no other core, and what it answers is its own step's outcome, a refusal and a fault included
(derived: spec R20, R46, R100). -/
def Obligations.EventTouchesOneInstance : Prop :=
  ∀ (sys : System) (i j : Nat),
    (i ≠ j → (sys.stepAt i).cores[j]? = sys.cores[j]? ∧ (sys.stepAt i).outcomeAt j = sys.outcomeAt j) ∧
    sys.outcomeAt j = (sys.cores[j]?).map step ∧
    (sys.stepAt j).cores[j]? = (sys.cores[j]?).map State.record

/-- Instances draw apart: at power-on there are as many cores as asked for, each right after power-on, no two with one
source of free values, and no interleaving brings two to one source, so nothing ties one instance's draws and overlap
outcomes to another's (derived: spec R46, R100, R105; sources are the model's, log entry 25). -/
def Obligations.InstancesDrawApart : Prop :=
  (∀ (n : Nat) (impl : CrcImpl) (h : 0 < n),
    (System.powerOn n impl h).cores.length = n ∧ (System.powerOn n impl h).Apart ∧
    ∀ s ∈ (System.powerOn n impl h).cores, s = { State.reset with crcImpl := impl, source := s.source }) ∧
  ∀ (sys : System) (schedule : List Nat), sys.Apart → (sys.runSchedule schedule).Apart

/-! ### Parameters -/

/-- CRC_IMPL cannot be observed: whichever a core is built with, its step answers the same, a refusal, a fault or a next
state that differs in nothing but the parameter itself, and so does its record (derived: spec R4, R16, R61; that the
parameter stands in State is the model's choice, log entry 24). -/
def Obligations.CrcImplUnobservable : Prop :=
  ∀ (impl : CrcImpl) (s : State),
    step (s.withCrcImpl impl) = mapNext (fun t => t.withCrcImpl impl) (step s) ∧
    (s.withCrcImpl impl).record = s.record.withCrcImpl impl

/-- No event changes a core's parameters, its CRC_IMPL and its source of free values (derived: spec R4, R15, R29; that they
stand in State is the model's choice, log entries 24 and 25). -/
def Obligations.ParametersNeverChange : Prop :=
  ∀ s : State,
    (∀ t, step s = .next t → t.crcImpl = s.crcImpl ∧ t.source = s.source) ∧
    s.record.crcImpl = s.crcImpl ∧ s.record.source = s.source

/-! ### The assembler -/

/-- Spec R58: each mnemonic's line assembles to its word, for every byte in each of the three operand forms, with or
without a comment after it. -/
def Obligations.AssemblerSpellsCommands : Prop :=
  ∀ tail : List Char, (tail = [] ∨ (∃ comment, tail = ';' :: comment) ∨ ∃ comment, tail = ' ' :: ';' :: comment) →
    assembleLine (['i', 'n', 'i', 't'] ++ tail) = some [0x0100#16] ∧
    (∀ b : Byte,
      assembleLine (['a', 'b', 's', 'o', 'r', 'b', ' '] ++ spellByte b ++ tail) = some [0x0200#16 ||| b.setWidth 16] ∧
      assembleLine (['a', 'b', 's', 'o', 'r', 'b', ' '] ++ Nat.toDigits 10 b.toNat ++ tail) =
        some [0x0200#16 ||| b.setWidth 16] ∧
      assembleLine (['d', 'e', 'c', 'r', 'y', 'p', 't', ' '] ++ spellByte b ++ tail) =
        some [0x0300#16 ||| b.setWidth 16] ∧
      assembleLine (['d', 'e', 'c', 'r', 'y', 'p', 't', ' '] ++ Nat.toDigits 10 b.toNat ++ tail) =
        some [0x0300#16 ||| b.setWidth 16]) ∧
    (∀ c : Char, 0x20 ≤ c.toNat → c.toNat ≤ 0x7E →
      assembleLine (['a', 'b', 's', 'o', 'r', 'b', ' ', '\'', c, '\''] ++ tail) =
        some [BitVec.ofNat 16 (0x0200 + c.toNat)] ∧
      assembleLine (['d', 'e', 'c', 'r', 'y', 'p', 't', ' ', '\'', c, '\''] ++ tail) =
        some [BitVec.ofNat 16 (0x0300 + c.toNat)])

/-- The assembler rejects an operand outside 0 to 255, an operand on `init` and a missing operand, and no line it accepts
yields a reserved word (derived: spec R59; that a hexadecimal literal of more than two digits is rejected whatever its value
is the model's choice, log entry 19). -/
def Obligations.AssemblerRejects : Prop :=
  (∀ (line : List Char) (ws : List CmdWord), assembleLine line = some ws → ∀ w ∈ ws, (decode w).isCommand = true) ∧
  (∀ (c : Char) (more : List Char), isBlank c = false → c ≠ ';' →
    assembleLine (['i', 'n', 'i', 't', ' ', c] ++ more) = none) ∧
  (∀ tail : List Char, (tail = [] ∨ (∃ comment, tail = ';' :: comment) ∨ ∃ comment, tail = ' ' :: ';' :: comment) →
    assembleLine (['a', 'b', 's', 'o', 'r', 'b'] ++ tail) = none ∧
    assembleLine (['d', 'e', 'c', 'r', 'y', 'p', 't'] ++ tail) = none) ∧
  (∀ digits : List Char, digits ≠ [] → (∀ c ∈ digits, '0'.toNat ≤ c.toNat ∧ c.toNat ≤ '9'.toNat) →
    255 < digits.foldl (fun n c => n * 10 + (c.toNat - '0'.toNat)) 0 →
    assembleLine (['a', 'b', 's', 'o', 'r', 'b', ' '] ++ digits) = none ∧
    assembleLine (['d', 'e', 'c', 'r', 'y', 'p', 't', ' '] ++ digits) = none) ∧
  (∀ (h l d : Char) (more : List Char), (hexDigit d).isSome = true →
    assembleLine (['a', 'b', 's', 'o', 'r', 'b', ' ', '0', 'x', h, l, d] ++ more) = none ∧
    assembleLine (['d', 'e', 'c', 'r', 'y', 'p', 't', ' ', '0', 'x', h, l, d] ++ more) = none)
end

