-- ==== Sys2Proof/Laws/Decode.lean ====
section
/-! SUPPORT. Command words and their fields as numbers: what the decoder reads and what the encoder writes. -/

namespace Sys2Proof

/-- A fixed head with the free bits of a row filled in is the head plus the bits. -/
theorem or_setWidth_toNat {k : Nat} (m : CmdWord) (a : Nat) (x : BitVec k) (hk : k ≤ 16) (hm : m.toNat = 2 ^ k * a) :
    (m ||| x.setWidth 16).toNat = m.toNat + x.toNat := by
  have hx : x.toNat < 2 ^ k := x.isLt
  have hp : 2 ^ k ≤ 2 ^ 16 := Nat.pow_le_pow_right (by decide) hk
  rw [BitVec.toNat_or, BitVec.toNat_setWidth, Nat.mod_eq_of_lt (by omega), hm, ← Nat.two_pow_add_eq_or_of_lt hx]

theorem opField_toNat (w : CmdWord) : (opField w).toNat = w.toNat / 256 := by
  have := w.isLt
  simp only [opField, BitVec.extractLsb'_toNat, Nat.shiftRight_eq_div_pow]
  omega

theorem dataField_toNat (w : CmdWord) : (dataField w).toNat = w.toNat % 256 := by
  simp [dataField]

/-- The low `k` bits of a word, as a number. -/
theorem lowBits_toNat (w : CmdWord) (k : Nat) : (w.extractLsb' 0 k).toNat = w.toNat % 2 ^ k := by
  simp [BitVec.extractLsb'_toNat]

/-! ### The word of each constructor, as a number -/

@[simp] theorem encode_init_toNat : (encode .init).toNat = 0x0100 := by decide

@[simp] theorem encode_absorb_toNat (x : BitVec 8) : (encode (.absorb x)).toNat = 0x0200 + x.toNat :=
  or_setWidth_toNat 0x0200#16 2 x (by decide) (by decide)

@[simp] theorem encode_decrypt_toNat (x : BitVec 8) : (encode (.decrypt x)).toNat = 0x0300 + x.toNat :=
  or_setWidth_toNat 0x0300#16 3 x (by decide) (by decide)

@[simp] theorem encode_reservedInitData_toNat (x : BitVec 8) : (encode (.reservedInitData x)).toNat = 0x0100 + x.toNat :=
  or_setWidth_toNat 0x0100#16 1 x (by decide) (by decide)

@[simp] theorem encode_reservedOp00_toNat (x : BitVec 8) : (encode (.reservedOp00 x)).toNat = 0x0000 + x.toNat :=
  or_setWidth_toNat 0x0000#16 0 x (by decide) (by decide)

@[simp] theorem encode_reservedOp04_toNat (x : BitVec 10) : (encode (.reservedOp04 x)).toNat = 0x0400 + x.toNat :=
  or_setWidth_toNat 0x0400#16 1 x (by decide) (by decide)

@[simp] theorem encode_reservedOp08_toNat (x : BitVec 11) : (encode (.reservedOp08 x)).toNat = 0x0800 + x.toNat :=
  or_setWidth_toNat 0x0800#16 1 x (by decide) (by decide)

@[simp] theorem encode_reservedOp10_toNat (x : BitVec 12) : (encode (.reservedOp10 x)).toNat = 0x1000 + x.toNat :=
  or_setWidth_toNat 0x1000#16 1 x (by decide) (by decide)

@[simp] theorem encode_reservedOp20_toNat (x : BitVec 13) : (encode (.reservedOp20 x)).toNat = 0x2000 + x.toNat :=
  or_setWidth_toNat 0x2000#16 1 x (by decide) (by decide)

@[simp] theorem encode_reservedOp40_toNat (x : BitVec 14) : (encode (.reservedOp40 x)).toNat = 0x4000 + x.toNat :=
  or_setWidth_toNat 0x4000#16 1 x (by decide) (by decide)

@[simp] theorem encode_reservedOp80_toNat (x : BitVec 15) : (encode (.reservedOp80 x)).toNat = 0x8000 + x.toNat :=
  or_setWidth_toNat 0x8000#16 1 x (by decide) (by decide)

/-! ### The byte transport -/

@[simp] theorem wordOfBytes_fields (w : CmdWord) : wordOfBytes (opField w) (dataField w) = w := by
  apply BitVec.eq_of_getLsbD_eq
  intro i hi
  simp only [wordOfBytes, opField, dataField]
  interval_cases i <;> simp

@[simp] theorem decodeBytes_wordBytes (w : CmdWord) (rest : List Byte) :
    decodeBytes (wordBytes w ++ rest) = .ok (decode w, rest) := by
  simp [wordBytes, decodeBytes]

/-- What a table word of at most 16 bits decodes to. -/
theorem decodeTableWord_eq_some {nbits w : Nat} {i : Instr} (h : decodeTableWord nbits w = some i) :
    nbits ≤ 16 ∧ w < 2 ^ nbits ∧ decode (BitVec.ofNat 16 w) = i := by
  unfold decodeTableWord at h
  have hb := decodeBytes_wordBytes (BitVec.ofNat 16 w) []
  rw [List.append_nil] at hb
  split at h
  · rename_i hc
    rw [hb] at h
    exact ⟨hc.1, hc.2, by simpa using h⟩
  · cases h

end Sys2Proof
end

