-- ==== Sys2Proof/Laws/State.lean ====
section
/-! SUPPORT. One lemma per field per update of State, each true by rfl. -/

namespace Sys2Proof.Machine

variable (s : State)

/-! ### writeKeys -/

@[simp] theorem State.writeKeys_key0 (k : KeyState) : (s.writeKeys k).key0 = some k.k0 := rfl
@[simp] theorem State.writeKeys_key1 (k : KeyState) : (s.writeKeys k).key1 = some k.k1 := rfl
@[simp] theorem State.writeKeys_key2 (k : KeyState) : (s.writeKeys k).key2 = some k.k2 := rfl
@[simp] theorem State.writeKeys_phase (k : KeyState) : (s.writeKeys k).phase = s.phase := rfl
@[simp] theorem State.writeKeys_response (k : KeyState) : (s.writeKeys k).response = s.response := rfl
@[simp] theorem State.writeKeys_refusedMark (k : KeyState) : (s.writeKeys k).refusedMark = s.refusedMark := rfl
@[simp] theorem State.writeKeys_faultMark (k : KeyState) : (s.writeKeys k).faultMark = s.faultMark := rfl
@[simp] theorem State.writeKeys_input (k : KeyState) : (s.writeKeys k).input = s.input := rfl
@[simp] theorem State.writeKeys_position (k : KeyState) : (s.writeKeys k).position = s.position := rfl
@[simp] theorem State.writeKeys_draws (k : KeyState) : (s.writeKeys k).draws = s.draws := rfl
@[simp] theorem State.writeKeys_reads (k : KeyState) : (s.writeKeys k).reads = s.reads := rfl
@[simp] theorem State.writeKeys_crcImpl (k : KeyState) : (s.writeKeys k).crcImpl = s.crcImpl := rfl
@[simp] theorem State.writeKeys_source (k : KeyState) : (s.writeKeys k).source = s.source := rfl

/-! ### setPhase -/

@[simp] theorem State.setPhase_key0 (p : Phase) : (s.setPhase p).key0 = s.key0 := rfl
@[simp] theorem State.setPhase_key1 (p : Phase) : (s.setPhase p).key1 = s.key1 := rfl
@[simp] theorem State.setPhase_key2 (p : Phase) : (s.setPhase p).key2 = s.key2 := rfl
@[simp] theorem State.setPhase_phase (p : Phase) : (s.setPhase p).phase = p.code := rfl
@[simp] theorem State.setPhase_response (p : Phase) : (s.setPhase p).response = s.response := rfl
@[simp] theorem State.setPhase_refusedMark (p : Phase) : (s.setPhase p).refusedMark = s.refusedMark := rfl
@[simp] theorem State.setPhase_faultMark (p : Phase) : (s.setPhase p).faultMark = s.faultMark := rfl
@[simp] theorem State.setPhase_input (p : Phase) : (s.setPhase p).input = s.input := rfl
@[simp] theorem State.setPhase_position (p : Phase) : (s.setPhase p).position = s.position := rfl
@[simp] theorem State.setPhase_draws (p : Phase) : (s.setPhase p).draws = s.draws := rfl
@[simp] theorem State.setPhase_reads (p : Phase) : (s.setPhase p).reads = s.reads := rfl
@[simp] theorem State.setPhase_crcImpl (p : Phase) : (s.setPhase p).crcImpl = s.crcImpl := rfl
@[simp] theorem State.setPhase_source (p : Phase) : (s.setPhase p).source = s.source := rfl

/-! ### emit -/

@[simp] theorem State.emit_key0 (p : Byte) : (s.emit p).key0 = s.key0 := rfl
@[simp] theorem State.emit_key1 (p : Byte) : (s.emit p).key1 = s.key1 := rfl
@[simp] theorem State.emit_key2 (p : Byte) : (s.emit p).key2 = s.key2 := rfl
@[simp] theorem State.emit_phase (p : Byte) : (s.emit p).phase = s.phase := rfl
@[simp] theorem State.emit_response (p : Byte) : (s.emit p).response = s.response ++ [p] := rfl
@[simp] theorem State.emit_refusedMark (p : Byte) : (s.emit p).refusedMark = s.refusedMark := rfl
@[simp] theorem State.emit_faultMark (p : Byte) : (s.emit p).faultMark = s.faultMark := rfl
@[simp] theorem State.emit_input (p : Byte) : (s.emit p).input = s.input := rfl
@[simp] theorem State.emit_position (p : Byte) : (s.emit p).position = s.position := rfl
@[simp] theorem State.emit_draws (p : Byte) : (s.emit p).draws = s.draws := rfl
@[simp] theorem State.emit_reads (p : Byte) : (s.emit p).reads = s.reads := rfl
@[simp] theorem State.emit_crcImpl (p : Byte) : (s.emit p).crcImpl = s.crcImpl := rfl
@[simp] theorem State.emit_source (p : Byte) : (s.emit p).source = s.source := rfl

/-! ### applyReset -/

@[simp] theorem State.applyReset_key0 : (s.applyReset).key0 = none := rfl
@[simp] theorem State.applyReset_key1 : (s.applyReset).key1 = none := rfl
@[simp] theorem State.applyReset_key2 : (s.applyReset).key2 = none := rfl
@[simp] theorem State.applyReset_phase : (s.applyReset).phase = Phase.idle.code := rfl
@[simp] theorem State.applyReset_response : (s.applyReset).response = s.response := rfl
@[simp] theorem State.applyReset_refusedMark : (s.applyReset).refusedMark = s.refusedMark := rfl
@[simp] theorem State.applyReset_faultMark : (s.applyReset).faultMark = s.faultMark := rfl
@[simp] theorem State.applyReset_input : (s.applyReset).input = s.input := rfl
@[simp] theorem State.applyReset_position : (s.applyReset).position = s.position := rfl
@[simp] theorem State.applyReset_draws : (s.applyReset).draws = s.draws := rfl
@[simp] theorem State.applyReset_reads : (s.applyReset).reads = s.reads := rfl
@[simp] theorem State.applyReset_crcImpl : (s.applyReset).crcImpl = s.crcImpl := rfl
@[simp] theorem State.applyReset_source : (s.applyReset).source = s.source := rfl

/-! ### noteReads -/

@[simp] theorem State.noteReads_key0 (rs : List Reading) : (s.noteReads rs).key0 = s.key0 := rfl
@[simp] theorem State.noteReads_key1 (rs : List Reading) : (s.noteReads rs).key1 = s.key1 := rfl
@[simp] theorem State.noteReads_key2 (rs : List Reading) : (s.noteReads rs).key2 = s.key2 := rfl
@[simp] theorem State.noteReads_phase (rs : List Reading) : (s.noteReads rs).phase = s.phase := rfl
@[simp] theorem State.noteReads_response (rs : List Reading) : (s.noteReads rs).response = s.response := rfl
@[simp] theorem State.noteReads_refusedMark (rs : List Reading) : (s.noteReads rs).refusedMark = s.refusedMark := rfl
@[simp] theorem State.noteReads_faultMark (rs : List Reading) : (s.noteReads rs).faultMark = s.faultMark := rfl
@[simp] theorem State.noteReads_input (rs : List Reading) : (s.noteReads rs).input = s.input := rfl
@[simp] theorem State.noteReads_position (rs : List Reading) : (s.noteReads rs).position = s.position := rfl
@[simp] theorem State.noteReads_draws (rs : List Reading) : (s.noteReads rs).draws = s.draws := rfl
@[simp] theorem State.noteReads_reads (rs : List Reading) : (s.noteReads rs).reads = s.reads ++ rs := rfl
@[simp] theorem State.noteReads_crcImpl (rs : List Reading) : (s.noteReads rs).crcImpl = s.crcImpl := rfl
@[simp] theorem State.noteReads_source (rs : List Reading) : (s.noteReads rs).source = s.source := rfl

/-! ### accept -/

@[simp] theorem State.accept_key0 (e : HostEvent) (rest : List HostEvent) : (s.accept e rest).key0 = s.key0 := rfl
@[simp] theorem State.accept_key1 (e : HostEvent) (rest : List HostEvent) : (s.accept e rest).key1 = s.key1 := rfl
@[simp] theorem State.accept_key2 (e : HostEvent) (rest : List HostEvent) : (s.accept e rest).key2 = s.key2 := rfl
@[simp] theorem State.accept_phase (e : HostEvent) (rest : List HostEvent) : (s.accept e rest).phase = s.phase := rfl
@[simp] theorem State.accept_response (e : HostEvent) (rest : List HostEvent) : (s.accept e rest).response = s.response := rfl
@[simp] theorem State.accept_refusedMark (e : HostEvent) (rest : List HostEvent) : (s.accept e rest).refusedMark = s.refusedMark := rfl
@[simp] theorem State.accept_faultMark (e : HostEvent) (rest : List HostEvent) : (s.accept e rest).faultMark = s.faultMark := rfl
@[simp] theorem State.accept_input (e : HostEvent) (rest : List HostEvent) : (s.accept e rest).input = rest := rfl
@[simp] theorem State.accept_position (e : HostEvent) (rest : List HostEvent) : (s.accept e rest).position = s.position + e.commands := rfl
@[simp] theorem State.accept_draws (e : HostEvent) (rest : List HostEvent) : (s.accept e rest).draws = s.draws + e.draws := rfl
@[simp] theorem State.accept_reads (e : HostEvent) (rest : List HostEvent) : (s.accept e rest).reads = s.reads := rfl
@[simp] theorem State.accept_crcImpl (e : HostEvent) (rest : List HostEvent) : (s.accept e rest).crcImpl = s.crcImpl := rfl
@[simp] theorem State.accept_source (e : HostEvent) (rest : List HostEvent) : (s.accept e rest).source = s.source := rfl

/-! ### markRefused -/

@[simp] theorem State.markRefused_key0 (m : RefusedMark) : (s.markRefused m).key0 = s.key0 := rfl
@[simp] theorem State.markRefused_key1 (m : RefusedMark) : (s.markRefused m).key1 = s.key1 := rfl
@[simp] theorem State.markRefused_key2 (m : RefusedMark) : (s.markRefused m).key2 = s.key2 := rfl
@[simp] theorem State.markRefused_phase (m : RefusedMark) : (s.markRefused m).phase = s.phase := rfl
@[simp] theorem State.markRefused_response (m : RefusedMark) : (s.markRefused m).response = s.response := rfl
@[simp] theorem State.markRefused_refusedMark (m : RefusedMark) : (s.markRefused m).refusedMark = s.refusedMark.or (some m) := rfl
@[simp] theorem State.markRefused_faultMark (m : RefusedMark) : (s.markRefused m).faultMark = s.faultMark := rfl
@[simp] theorem State.markRefused_input (m : RefusedMark) : (s.markRefused m).input = s.input := rfl
@[simp] theorem State.markRefused_position (m : RefusedMark) : (s.markRefused m).position = s.position := rfl
@[simp] theorem State.markRefused_draws (m : RefusedMark) : (s.markRefused m).draws = s.draws := rfl
@[simp] theorem State.markRefused_reads (m : RefusedMark) : (s.markRefused m).reads = s.reads := rfl
@[simp] theorem State.markRefused_crcImpl (m : RefusedMark) : (s.markRefused m).crcImpl = s.crcImpl := rfl
@[simp] theorem State.markRefused_source (m : RefusedMark) : (s.markRefused m).source = s.source := rfl

/-! ### markFault -/

@[simp] theorem State.markFault_key0 (f : Option Fault) : (s.markFault f).key0 = s.key0 := rfl
@[simp] theorem State.markFault_key1 (f : Option Fault) : (s.markFault f).key1 = s.key1 := rfl
@[simp] theorem State.markFault_key2 (f : Option Fault) : (s.markFault f).key2 = s.key2 := rfl
@[simp] theorem State.markFault_phase (f : Option Fault) : (s.markFault f).phase = s.phase := rfl
@[simp] theorem State.markFault_response (f : Option Fault) : (s.markFault f).response = s.response := rfl
@[simp] theorem State.markFault_refusedMark (f : Option Fault) : (s.markFault f).refusedMark = s.refusedMark := rfl
@[simp] theorem State.markFault_faultMark (f : Option Fault) : (s.markFault f).faultMark = s.faultMark.or f := rfl
@[simp] theorem State.markFault_input (f : Option Fault) : (s.markFault f).input = s.input := rfl
@[simp] theorem State.markFault_position (f : Option Fault) : (s.markFault f).position = s.position := rfl
@[simp] theorem State.markFault_draws (f : Option Fault) : (s.markFault f).draws = s.draws := rfl
@[simp] theorem State.markFault_reads (f : Option Fault) : (s.markFault f).reads = s.reads := rfl
@[simp] theorem State.markFault_crcImpl (f : Option Fault) : (s.markFault f).crcImpl = s.crcImpl := rfl
@[simp] theorem State.markFault_source (f : Option Fault) : (s.markFault f).source = s.source := rfl

/-! ### readOutput -/

@[simp] theorem State.readOutput_key0 (o : OutputPort) : (s.readOutput o).key0 = s.key0 := rfl
@[simp] theorem State.readOutput_key1 (o : OutputPort) : (s.readOutput o).key1 = s.key1 := rfl
@[simp] theorem State.readOutput_key2 (o : OutputPort) : (s.readOutput o).key2 = s.key2 := rfl
@[simp] theorem State.readOutput_phase (o : OutputPort) : (s.readOutput o).phase = s.phase := rfl
@[simp] theorem State.readOutput_response (o : OutputPort) : (s.readOutput o).response = s.response := rfl
@[simp] theorem State.readOutput_refusedMark (o : OutputPort) : (s.readOutput o).refusedMark = s.refusedMark := rfl
@[simp] theorem State.readOutput_input (o : OutputPort) : (s.readOutput o).input = s.input := rfl
@[simp] theorem State.readOutput_position (o : OutputPort) : (s.readOutput o).position = s.position := rfl
@[simp] theorem State.readOutput_draws (o : OutputPort) : (s.readOutput o).draws = s.draws := rfl
@[simp] theorem State.readOutput_crcImpl (o : OutputPort) : (s.readOutput o).crcImpl = s.crcImpl := rfl
@[simp] theorem State.readOutput_source (o : OutputPort) : (s.readOutput o).source = s.source := rfl
@[simp] theorem State.readOutput_reads (o : OutputPort) : (s.readOutput o).reads = s.reads ++ (s.shown o).toList := rfl
@[simp] theorem State.readOutput_faultMark (o : OutputPort) : (s.readOutput o).faultMark = s.faultMark.or (s.readFault o) := rfl

/-! ### withCrcImpl -/

@[simp] theorem State.withCrcImpl_key0 (impl : CrcImpl) : (s.withCrcImpl impl).key0 = s.key0 := rfl
@[simp] theorem State.withCrcImpl_key1 (impl : CrcImpl) : (s.withCrcImpl impl).key1 = s.key1 := rfl
@[simp] theorem State.withCrcImpl_key2 (impl : CrcImpl) : (s.withCrcImpl impl).key2 = s.key2 := rfl
@[simp] theorem State.withCrcImpl_phase (impl : CrcImpl) : (s.withCrcImpl impl).phase = s.phase := rfl
@[simp] theorem State.withCrcImpl_response (impl : CrcImpl) : (s.withCrcImpl impl).response = s.response := rfl
@[simp] theorem State.withCrcImpl_refusedMark (impl : CrcImpl) : (s.withCrcImpl impl).refusedMark = s.refusedMark := rfl
@[simp] theorem State.withCrcImpl_faultMark (impl : CrcImpl) : (s.withCrcImpl impl).faultMark = s.faultMark := rfl
@[simp] theorem State.withCrcImpl_input (impl : CrcImpl) : (s.withCrcImpl impl).input = s.input := rfl
@[simp] theorem State.withCrcImpl_position (impl : CrcImpl) : (s.withCrcImpl impl).position = s.position := rfl
@[simp] theorem State.withCrcImpl_draws (impl : CrcImpl) : (s.withCrcImpl impl).draws = s.draws := rfl
@[simp] theorem State.withCrcImpl_reads (impl : CrcImpl) : (s.withCrcImpl impl).reads = s.reads := rfl
@[simp] theorem State.withCrcImpl_crcImpl (impl : CrcImpl) : (s.withCrcImpl impl).crcImpl = impl := rfl
@[simp] theorem State.withCrcImpl_source (impl : CrcImpl) : (s.withCrcImpl impl).source = s.source := rfl

/-! ### present -/

@[simp] theorem State.present_key0 (w : CmdWord) : (s.present w).key0 = s.key0 := rfl
@[simp] theorem State.present_key1 (w : CmdWord) : (s.present w).key1 = s.key1 := rfl
@[simp] theorem State.present_key2 (w : CmdWord) : (s.present w).key2 = s.key2 := rfl
@[simp] theorem State.present_phase (w : CmdWord) : (s.present w).phase = s.phase := rfl
@[simp] theorem State.present_response (w : CmdWord) : (s.present w).response = s.response := rfl
@[simp] theorem State.present_refusedMark (w : CmdWord) : (s.present w).refusedMark = s.refusedMark := rfl
@[simp] theorem State.present_faultMark (w : CmdWord) : (s.present w).faultMark = s.faultMark := rfl
@[simp] theorem State.present_input (w : CmdWord) : (s.present w).input = .command w :: s.input := rfl
@[simp] theorem State.present_position (w : CmdWord) : (s.present w).position = s.position := rfl
@[simp] theorem State.present_draws (w : CmdWord) : (s.present w).draws = s.draws := rfl
@[simp] theorem State.present_reads (w : CmdWord) : (s.present w).reads = s.reads := rfl
@[simp] theorem State.present_crcImpl (w : CmdWord) : (s.present w).crcImpl = s.crcImpl := rfl
@[simp] theorem State.present_source (w : CmdWord) : (s.present w).source = s.source := rfl

end Sys2Proof.Machine
end

