-- ==== Sys2Proof/Laws/Ops.lean ====
section
/-! SUPPORT. What each shared operation can do, said once: the phase codes, the keys, the phase-checked access, and the
outcomes. -/

namespace Sys2Proof.Machine

/-! ### The pure functions -/

theorem update_k0 (k : KeyState) (b : Byte) : (update k b).k0 = crcStep k.k0 b := by
  simp only [update, updateBy, crcStepBy]

theorem update_k1 (k : KeyState) (b : Byte) :
    (update k b).k1 = (k.k1 + byteOperand (lowByte (update k b).k0)) * lcgMul + lcgInc := by
  simp only [update, updateBy]

theorem update_k2 (k : KeyState) (b : Byte) :
    (update k b).k2 = crcStep k.k2 (highByte (update k b).k1) := by
  simp only [update, updateBy, crcStepBy]

theorem lcgMul_toNat : lcgMul.toNat = 134775813 := by decide

theorem lcgInc_toNat : lcgInc.toNat = 1 := by decide

theorem lowByte_toNat (v : Key) : (lowByte v).toNat = v.toNat % 256 := by
  simp [lowByte]

theorem highByte_toNat (v : Key) : (highByte v).toNat = v.toNat / 2 ^ 24 := by
  have := v.isLt
  simp only [highByte, BitVec.extractLsb'_toNat, Nat.shiftRight_eq_div_pow]
  omega

theorem byteOperand_toNat (b : Byte) : (byteOperand b).toNat = b.toNat := by
  have := b.isLt
  simp only [byteOperand, BitVec.toNat_setWidth]
  omega

theorem crcRounds_add (n m : Nat) (c : Key) : crcRounds (n + m) c = crcRounds m (crcRounds n c) := by
  induction n generalizing c with
  | zero => simp [crcRounds]
  | succ n ih => rw [Nat.succ_add, crcRounds, ih, crcRounds]

/-- One generator round is linear over XOR. -/
theorem crcRound_xor (a b : Key) : crcRound (a ^^^ b) = crcRound a ^^^ crcRound b := by
  unfold crcRound
  rw [BitVec.getLsbD_xor, BitVec.ushiftRight_xor_distrib]
  cases a.getLsbD 0 <;> cases b.getLsbD 0 <;> simp
  · ac_rfl
  · ac_rfl
  · rw [BitVec.xor_comm (b >>> 1) crcPoly, BitVec.xor_assoc, ← BitVec.xor_assoc crcPoly crcPoly, BitVec.xor_self,
      BitVec.zero_xor]

theorem crcRounds_xor (n : Nat) (a b : Key) : crcRounds n (a ^^^ b) = crcRounds n a ^^^ crcRounds n b := by
  induction n generalizing a b with
  | zero => rfl
  | succ n ih => rw [crcRounds, crcRound_xor, ih, crcRounds, crcRounds]

/-- A round on an even value only shifts it. -/
theorem crcRound_of_even {c : Key} (h : c.toNat % 2 = 0) : (crcRound c).toNat = c.toNat / 2 := by
  have hb : c.getLsbD 0 = false := by simp only [BitVec.getLsbD, Nat.testBit_zero, h]; rfl
  simp only [crcRound, hb, Bool.false_eq_true, if_false, BitVec.toNat_ushiftRight, Nat.shiftRight_eq_div_pow]

/-- `n` rounds on a multiple of `2 ^ n` only shift it. -/
theorem crcRounds_of_dvd (n : Nat) {c : Key} (h : 2 ^ n ∣ c.toNat) : (crcRounds n c).toNat = c.toNat / 2 ^ n := by
  induction n generalizing c with
  | zero => simp [crcRounds]
  | succ n ih =>
    obtain ⟨q, hq⟩ := h
    have hpow : 2 ^ (n + 1) = 2 * 2 ^ n := by rw [Nat.pow_succ, Nat.mul_comm]
    have hr : (crcRound c).toNat = 2 ^ n * q := by
      rw [crcRound_of_even (by rw [hq, hpow, Nat.mul_assoc]; omega), hq, hpow, Nat.mul_assoc]
      omega
    rw [crcRounds, ih ⟨q, hr⟩, hr, hq, Nat.mul_div_cancel_left _ (Nat.two_pow_pos n),
      Nat.mul_div_cancel_left _ (Nat.two_pow_pos (n + 1))]

/-- A value is its upper 24 bits, in place, and its low byte. -/
theorem split_lowByte (x : Key) : x = ((x >>> 8) <<< 8) ^^^ byteOperand (lowByte x) := by
  simp only [byteOperand, lowByte]
  ext i hi
  simp only [BitVec.getElem_xor, BitVec.getElem_shiftLeft, BitVec.getElem_setWidth, BitVec.getLsbD_extractLsb']
  by_cases h : i < 8
  · simp [h, BitVec.getLsbD_eq_getElem hi]
  · have : 8 + (i - 8) = i := by omega
    simp [h, this, hi]

/-- Both forms of CRC_IMPL compute CRCSTEP (spec R16, R61). -/
@[simp] theorem crcStepBy_eq (impl : CrcImpl) (acc : Key) (b : Byte) : crcStepBy impl acc b = crcStep acc b := by
  cases impl with
  | table => rfl
  | bitwise =>
    have hhigh : (crcRounds 8 (((acc ^^^ byteOperand b) >>> 8) <<< 8)) = acc >>> 8 := by
      have hz : byteOperand b >>> 8 = 0#32 := by
        apply BitVec.eq_of_toNat_eq
        rw [BitVec.toNat_ushiftRight, byteOperand_toNat, Nat.shiftRight_eq_div_pow]
        have := b.isLt
        simp only [BitVec.toNat_ofNat]
        omega
      rw [BitVec.ushiftRight_xor_distrib, hz, BitVec.xor_zero]
      apply BitVec.eq_of_toNat_eq
      have hn : ((acc >>> 8) <<< 8).toNat = 2 ^ 8 * (acc >>> 8).toNat := by
        have := acc.isLt
        simp only [BitVec.toNat_shiftLeft, BitVec.toNat_ushiftRight, Nat.shiftLeft_eq, Nat.shiftRight_eq_div_pow]
        omega
      rw [crcRounds_of_dvd 8 ⟨_, hn⟩, hn, Nat.mul_div_cancel_left _ (Nat.two_pow_pos 8)]
    show crcRounds 8 (acc ^^^ byteOperand b) = _
    rw [split_lowByte (acc ^^^ byteOperand b), crcRounds_xor, hhigh]
    rfl

/-- UPDATE is the same function on every implementation (spec R16). -/
@[simp] theorem updateBy_eq (impl : CrcImpl) (k : KeyState) (b : Byte) : updateBy impl k b = update k b := by
  simp only [update, updateBy, crcStepBy_eq]

/-! ### The phase register -/

@[simp] theorem Phase.ofCode_code (p : Phase) : Phase.ofCode p.code = some p := by
  cases p <;> rfl

theorem Phase.ofCode_eq_some_iff (c : BitVec 2) (p : Phase) : Phase.ofCode c = some p ↔ c = p.code := by
  revert c p
  intro c p
  cases p <;> revert c <;> decide

theorem Phase.ofCode_eq_none_iff (c : BitVec 2) : Phase.ofCode c = none ↔ c = 0b11#2 := by
  revert c
  decide

theorem Phase.code_injective {p q : Phase} (h : p.code = q.code) : p = q := by
  have := congrArg Phase.ofCode h
  simpa using this

theorem Phase.code_ne_three (p : Phase) : p.code ≠ 0b11#2 := by
  cases p <;> decide

/-- A phase register that does not hold 0b11 holds a named phase's code. -/
theorem exists_phase_of_ne_three {c : BitVec 2} (h : c ≠ 0b11#2) : ∃ p : Phase, c = p.code := by
  cases hp : Phase.ofCode c with
  | none => exact absurd ((Phase.ofCode_eq_none_iff c).1 hp) h
  | some p => exact ⟨p, (Phase.ofCode_eq_some_iff c p).1 hp⟩

/-! ### The key registers -/

theorem State.readKeys_eq_some_iff (s : State) (k : KeyState) : s.readKeys = some k ↔ s.HoldsKeys k := by
  obtain ⟨a, b, c⟩ := k
  unfold State.readKeys State.HoldsKeys
  split
  · simp_all
  · rename_i hn
    simp only [reduceCtorEq, false_iff]
    rintro ⟨h0, h1, h2⟩
    exact hn _ _ _ h0 h1 h2

@[simp] theorem State.readKeys_writeKeys (s : State) (k : KeyState) : (s.writeKeys k).readKeys = some k := rfl

theorem State.writeKeys_holds (s : State) (k : KeyState) : (s.writeKeys k).HoldsKeys k := ⟨rfl, rfl, rfl⟩

/-- Under the invariant, a phase other than IDLE means that the keys hold some key state. -/
theorem State.Inv.holds {s : State} (h : s.Inv) (hp : s.phase ≠ Phase.idle.code) : ∃ k, s.HoldsKeys k := by
  obtain ⟨h3, -, hset⟩ := h
  obtain ⟨p, hpc⟩ := exists_phase_of_ne_three h3
  have hk : s.phase = Phase.keying.code ∨ s.phase = Phase.streaming.code := by
    cases p <;> simp_all
  obtain ⟨h0, h1, h2⟩ := hset hk
  obtain ⟨a, ha⟩ := Option.isSome_iff_exists.1 h0
  obtain ⟨b, hb⟩ := Option.isSome_iff_exists.1 h1
  obtain ⟨c, hc⟩ := Option.isSome_iff_exists.1 h2
  exact ⟨⟨a, b, c⟩, ha, hb, hc⟩

/-- A state that holds keys in a phase other than IDLE meets the invariant. -/
theorem State.inv_of_holds {s : State} {k : KeyState} {p : Phase} (hk : s.HoldsKeys k) (hp : s.phase = p.code)
    (hne : p ≠ .idle) : s.Inv := by
  obtain ⟨h0, h1, h2⟩ := hk
  refine ⟨hp ▸ p.code_ne_three, ⟨fun h => ?_, fun h => ?_⟩, fun _ => ?_⟩
  · exact absurd (Phase.code_injective (hp.symm.trans h)) hne
  · simp [h0] at h
  · simp [h0, h1, h2]

theorem State.applyReset_inv (s : State) : s.applyReset.Inv := by
  refine ⟨Phase.code_ne_three .idle, ⟨fun _ => ⟨rfl, rfl, rfl⟩, fun _ => rfl⟩, fun h => ?_⟩
  exact absurd h (by simp [Phase.code])

/-! ### The phase-checked access to the keys -/

/-- All that `guarded` can do when it answers a next state. -/
theorem guarded_eq_next_iff (check : Phase → Option Refusal) (act : KeyState → State → State) (s t : State) :
    guarded check act s = .next t ↔
      ∃ p k, s.phase = p.code ∧ check p = none ∧ s.HoldsKeys k ∧ t = act k s := by
  unfold guarded
  constructor
  · intro h
    split at h
    · cases h
    · rename_i p hp
      split at h
      · cases h
      · rename_i hc
        split at h
        · cases h
        · rename_i k hk
          cases h
          exact ⟨p, k, (Phase.ofCode_eq_some_iff _ _).1 hp, hc, (State.readKeys_eq_some_iff _ _).1 hk, rfl⟩
  · rintro ⟨p, k, hp, hc, hk, rfl⟩
    simp [hp, hc, (State.readKeys_eq_some_iff s k).2 hk]

/-- When `guarded` refuses: in a named phase that the check turns away. -/
theorem guarded_eq_refused_iff (check : Phase → Option Refusal) (act : KeyState → State → State) (s : State)
    (r : Refusal) : guarded check act s = .refused r ↔ ∃ p : Phase, s.phase = p.code ∧ check p = some r := by
  unfold guarded
  constructor
  · intro h
    split at h
    · cases h
    · rename_i p hp
      split at h
      · rename_i hc
        cases h
        exact ⟨p, (Phase.ofCode_eq_some_iff _ _).1 hp, hc⟩
      · split at h <;> cases h
  · rintro ⟨p, hp, hc⟩
    simp [hp, hc]

/-! ### The accesses over a command -/

theorem hasReset_iff (as : List Access) : hasReset as = true ↔ .reset ∈ as := by
  induction as with
  | nil => simp [hasReset]
  | cons a as ih => cases a <;> simp [hasReset, ih]

/-- A read of an output faults where it shows no value, or a phase code that stands for no phase. -/
theorem State.readFault_eq_some_iff (s : State) (o : OutputPort) (f : Fault) : s.readFault o = some f ↔
    (∃ i, o = .key i ∧ s.key i = none ∧ f = .unsetKeyRead) ∨ (o = .phase ∧ s.phase = 0b11#2 ∧ f = .badPhase) := by
  cases o with
  | key i => cases h : s.key i <;> simp [State.readFault, h, eq_comm]
  | phase =>
    rw [← Phase.ofCode_eq_none_iff]
    cases h : Phase.ofCode s.phase <;> simp [State.readFault, h, eq_comm]

/-! ### Outcomes -/

@[simp] theorem mapNext_next (f : State → State) (s : State) : mapNext f (.next s) = .next (f s) := rfl
@[simp] theorem mapNext_fault (f : State → State) (r : Fault) : mapNext f (.fault r) = .fault r := rfl
@[simp] theorem mapNext_refused (f : State → State) (r : Refusal) : mapNext f (.refused r) = .refused r := rfl

theorem mapNext_eq_next_iff (f : State → State) (o : Host.Outcome State Fault Refusal) (t : State) :
    mapNext f o = .next t ↔ ∃ u, o = .next u ∧ t = f u := by
  cases o <;> simp [eq_comm]

theorem mapNext_eq_refused_iff (f : State → State) (o : Host.Outcome State Fault Refusal) (r : Refusal) :
    mapNext f o = .refused r ↔ o = .refused r := by
  cases o <;> simp

end Sys2Proof.Machine
end

