-- ==== Sys2Proof/Laws/Exec.lean ====
section
/-! SUPPORT. What an instruction, an event and a step can do: one inversion lemma each, for later proofs to cite. -/

namespace Sys2Proof.Machine

/-! ### The arms of exec, each by its shared operation -/

@[simp] theorem exec_init (s : State) : exec .init s = .next ((s.writeKeys seed).setPhase .keying) := rfl

theorem exec_absorb (b : Byte) (s : State) :
    exec (.absorb b) s = guarded absorbCheck (fun k s => s.writeKeys (update k b)) s := by
  simp only [exec, execAbsorb, updateBy_eq]

theorem exec_decrypt (c : Byte) (s : State) :
    exec (.decrypt c) s = guarded decryptCheck
      (fun k s => ((s.writeKeys (update k (plaintext k c))).setPhase .streaming).emit (plaintext k c)) s := by
  simp only [exec, execDecrypt, updateBy_eq]

/-- All that an instruction can do when it answers a next state. -/
theorem exec_next_cases {i : Instr} {s t : State} (h : exec i s = .next t) :
    (i = .init ∧ t = (s.writeKeys seed).setPhase .keying) ∨
    (∃ b k, i = .absorb b ∧ s.phase = Phase.keying.code ∧ s.HoldsKeys k ∧ t = s.writeKeys (update k b)) ∨
    (∃ c k, i = .decrypt c ∧ (s.phase = Phase.keying.code ∨ s.phase = Phase.streaming.code) ∧ s.HoldsKeys k ∧
      t = ((s.writeKeys (update k (plaintext k c))).setPhase .streaming).emit (plaintext k c)) := by
  cases i with
  | init =>
    cases h
    exact .inl ⟨rfl, rfl⟩
  | absorb b =>
    rw [exec_absorb] at h
    obtain ⟨p, k, hp, hc, hk, rfl⟩ := (guarded_eq_next_iff _ _ _ _).1 h
    cases p with
    | idle => cases hc
    | keying => exact .inr (.inl ⟨b, k, rfl, hp, hk, rfl⟩)
    | streaming => cases hc
  | decrypt c =>
    rw [exec_decrypt] at h
    obtain ⟨p, k, hp, hc, hk, rfl⟩ := (guarded_eq_next_iff _ _ _ _).1 h
    cases p with
    | idle => cases hc
    | keying => exact .inr (.inr ⟨c, k, rfl, .inl hp, hk, rfl⟩)
    | streaming => exact .inr (.inr ⟨c, k, rfl, .inr hp, hk, rfl⟩)
  | reservedInitData _ => cases h
  | reservedOp00 _ => cases h
  | reservedOp04 _ => cases h
  | reservedOp08 _ => cases h
  | reservedOp10 _ => cases h
  | reservedOp20 _ => cases h
  | reservedOp40 _ => cases h
  | reservedOp80 _ => cases h

/-- A command is performed exactly when no refused mark is set and its instruction answers a next state. -/
theorem perform_eq_next_iff (w : CmdWord) (s t : State) :
    perform w s = .next t ↔ s.refusedMark = none ∧ exec (decode w) s = .next t := by
  unfold perform
  split <;> simp_all

/-- With no refused mark, a command is its instruction. -/
theorem perform_of_unmarked {s : State} (h : s.refusedMark = none) (w : CmdWord) : perform w s = exec (decode w) s := by
  simp [perform, h]

/-- All that an event can do when it answers a next state. -/
theorem handle_next_cases {e : HostEvent} {n : Nat} {s t : State} (h : handle e n s = .next t) :
    (∃ w, e = .command w ∧ perform w s = .next t) ∨
    (e = .reset ∧ t = s.applyReset) ∨
    (∃ o, e = .read o ∧ t = s.readOutput o) ∨
    (∃ w as, e = .during w as ∧ .reset ∈ as ∧ Config.overlapCompletes s.source n = false ∧
      t = s.applyReset.noteReads (drawnReadings s.source n as)) ∨
    (∃ w as u, e = .during w as ∧ .reset ∈ as ∧ Config.overlapCompletes s.source n = true ∧
      perform w s = .next u ∧ t = u.applyReset.noteReads (drawnReadings s.source n as)) ∨
    (∃ w as u, e = .during w as ∧ .reset ∉ as ∧ perform w s = .next u ∧
      t = u.noteReads (drawnReadings s.source n as)) := by
  cases e with
  | command w => exact .inl ⟨w, rfl, h⟩
  | lone b =>
    simp only [handle, refusePartial] at h
    split at h <;> cases h
  | reset =>
    cases h
    exact .inr (.inl ⟨rfl, rfl⟩)
  | read o =>
    cases h
    exact .inr (.inr (.inl ⟨o, rfl, rfl⟩))
  | during w as =>
    obtain ⟨u, hu, rfl⟩ := (mapNext_eq_next_iff _ _ _).1 h
    split at hu
    · rename_i hr
      rw [hasReset_iff] at hr
      simp only [resetOverlapping] at hu
      split at hu
      · rename_i hc
        obtain ⟨v, hv, rfl⟩ := (mapNext_eq_next_iff _ _ _).1 hu
        exact .inr (.inr (.inr (.inr (.inl ⟨w, as, v, rfl, hr, hc, hv, rfl⟩))))
      · rename_i hc
        cases hu
        exact .inr (.inr (.inr (.inl ⟨w, as, rfl, hr, by simpa using hc, rfl⟩)))
    · rename_i hr
      rw [hasReset_iff] at hr
      exact .inr (.inr (.inr (.inr (.inr ⟨w, as, u, rfl, hr, hu, rfl⟩))))

theorem step_of_no_input {s : State} (h : s.input = []) : step s = .next s := by
  simp [step, stepOnInput, h]

theorem step_of_input {s : State} {e : HostEvent} {rest : List HostEvent} (h : s.input = e :: rest) :
    step s = handle e s.draws (s.accept e rest) := by
  simp [step, stepOnInput, h]

/-- A step that answers a next state either had nothing presented, or handled the next event. -/
theorem step_next_cases {s t : State} (h : step s = .next t) :
    (s.input = [] ∧ t = s) ∨
    (∃ e rest, s.input = e :: rest ∧ handle e s.draws (s.accept e rest) = .next t) := by
  cases hi : s.input with
  | nil =>
    rw [step_of_no_input hi] at h
    cases h
    exact .inl ⟨rfl, rfl⟩
  | cons e rest => exact .inr ⟨e, rest, rfl, step_of_input hi ▸ h⟩

/-! ### The record of an event -/

theorem record_of_no_input {s : State} (h : s.input = []) : s.record = s := by
  simp [State.record, h]

/-- A step that goes on is its own record. -/
theorem record_of_next {s t : State} (h : step s = .next t) : s.record = t := by
  unfold State.record
  split
  · rename_i hi
    rw [step_of_no_input hi] at h
    cases h
    rfl
  · rw [h]

/-- What a fault leaves: the event taken, the fault mark set, and the event's own effect. -/
theorem record_of_fault {s : State} {e : HostEvent} {rest : List HostEvent} {f : Fault} (hi : s.input = e :: rest)
    (h : step s = .fault f) : s.record = ((s.accept e rest).markFault (some f)).settle s.draws e := by
  simp [State.record, hi, h]

/-- What a refusal leaves: the event taken, the refused mark set, and the event's own effect. -/
theorem record_of_refused {s : State} {e : HostEvent} {rest : List HostEvent} {r : Refusal} (hi : s.input = e :: rest)
    (h : step s = .refused r) :
    s.record = ((s.accept e rest).markRefused { reason := r, position := s.position, unit := e }).settle s.draws e := by
  simp [State.record, hi, h]

/-- What a stopped event does beside its command: a reset over it applies, and the reads over it are listed. -/
theorem settle_cases (s : State) (n : Nat) (e : HostEvent) :
    (.reset ∈ e.accesses ∧ s.settle n e = s.applyReset.noteReads (drawnReadings s.source n e.accesses)) ∨
    (.reset ∉ e.accesses ∧ s.settle n e = s.noteReads (drawnReadings s.source n e.accesses)) := by
  by_cases h : .reset ∈ e.accesses
  · exact .inl ⟨h, by simp [State.settle, (hasReset_iff _).2 h]⟩
  · exact .inr ⟨h, by simp [State.settle, (hasReset_iff _).not.2 h]⟩

/-! ### Several steps -/

/-- The host's run of any machine, one step at a time. -/
theorem core_run_succ (M : Host.Core) (k : Nat) (s : M.State) :
    (∀ t, M.step s = .next t → M.run (k + 1) s = M.run k t) ∧
    (∀ f, M.step s = .fault f → M.run (k + 1) s = .fault f) ∧
    (∀ r, M.step s = .refused r → M.run (k + 1) s = .refused r) := by
  refine ⟨fun t h => ?_, fun f h => ?_, fun r h => ?_⟩ <;> simp [Host.Core.run, h]

/-- `run` is the host's run of this core. -/
theorem run_eq_core_run (n : Nat) (s : State) : run n s = Host.Core.run Sys2Proof.core n s := by
  induction n generalizing s with
  | zero => rfl
  | succ k ih =>
    obtain ⟨hn, hf, hr⟩ := core_run_succ Sys2Proof.core k s
    rw [run]
    cases hs : step s with
    | next t => exact (ih t).trans (hn t hs).symm
    | fault f => exact (hf f hs).symm
    | refused r => exact (hr r hs).symm

theorem run_succ_of_next {n : Nat} {s t : State} (h : step s = .next t) : run (n + 1) s = run n t := by
  simp [run, h]

end Sys2Proof.Machine
end

