-- ==== Sys2Proof/Laws/PerInstr.lean ====
section
/-! SUPPORT. Statements about every instruction as syntax, one lemma per constructor. -/

namespace Sys2Proof.Laws

/-- Each constructor's row of spec/opcode_table.json: its match and its mask (spec R51). -/
def tableRow : Instr → CmdWord × CmdWord
  | .init => (0x0100#16, 0xFFFF#16)
  | .absorb _ => (0x0200#16, 0xFF00#16)
  | .decrypt _ => (0x0300#16, 0xFF00#16)
  | .reservedInitData _ => (0x0100#16, 0xFF00#16)
  | .reservedOp00 _ => (0x0000#16, 0xFF00#16)
  | .reservedOp04 _ => (0x0400#16, 0xFC00#16)
  | .reservedOp08 _ => (0x0800#16, 0xF800#16)
  | .reservedOp10 _ => (0x1000#16, 0xF000#16)
  | .reservedOp20 _ => (0x2000#16, 0xE000#16)
  | .reservedOp40 _ => (0x4000#16, 0xC000#16)
  | .reservedOp80 _ => (0x8000#16, 0x8000#16)

/-- The word of an instruction lies in its row of the opcode table: `(w & mask) == match` (spec R51). -/
def InRow.Statement (i : Instr) : Prop := encode i &&& (tableRow i).2 = (tableRow i).1

theorem InRow.init : Statement .init := by
  unfold Statement
  decide

theorem InRow.absorb (x : BitVec 8) : Statement (.absorb x) := by
  apply BitVec.eq_of_getLsbD_eq
  intro i hi
  interval_cases i <;> simp [encode, tableRow]

theorem InRow.decrypt (x : BitVec 8) : Statement (.decrypt x) := by
  apply BitVec.eq_of_getLsbD_eq
  intro i hi
  interval_cases i <;> simp [encode, tableRow]

theorem InRow.reservedInitData (x : BitVec 8) : Statement (.reservedInitData x) := by
  apply BitVec.eq_of_getLsbD_eq
  intro i hi
  interval_cases i <;> simp [encode, tableRow]

theorem InRow.reservedOp00 (x : BitVec 8) : Statement (.reservedOp00 x) := by
  apply BitVec.eq_of_getLsbD_eq
  intro i hi
  interval_cases i <;> simp [encode, tableRow]

theorem InRow.reservedOp04 (x : BitVec 10) : Statement (.reservedOp04 x) := by
  apply BitVec.eq_of_getLsbD_eq
  intro i hi
  interval_cases i <;> simp [encode, tableRow]

theorem InRow.reservedOp08 (x : BitVec 11) : Statement (.reservedOp08 x) := by
  apply BitVec.eq_of_getLsbD_eq
  intro i hi
  interval_cases i <;> simp [encode, tableRow]

theorem InRow.reservedOp10 (x : BitVec 12) : Statement (.reservedOp10 x) := by
  apply BitVec.eq_of_getLsbD_eq
  intro i hi
  interval_cases i <;> simp [encode, tableRow]

theorem InRow.reservedOp20 (x : BitVec 13) : Statement (.reservedOp20 x) := by
  apply BitVec.eq_of_getLsbD_eq
  intro i hi
  interval_cases i <;> simp [encode, tableRow]

theorem InRow.reservedOp40 (x : BitVec 14) : Statement (.reservedOp40 x) := by
  apply BitVec.eq_of_getLsbD_eq
  intro i hi
  interval_cases i <;> simp [encode, tableRow]

theorem InRow.reservedOp80 (x : BitVec 15) : Statement (.reservedOp80 x) := by
  apply BitVec.eq_of_getLsbD_eq
  intro i hi
  interval_cases i <;> simp [encode, tableRow]

end Sys2Proof.Laws
end

