-- ==== Sys2Proof/Tests/Slice0.lean ====
section
/-! SUPPORT. The WellFormed smoke test, decoding of words written out from the spec's encodings, one-step tests against
the spec's vectors (95_test_vectors.md; values there are derived from the rules by its writer, not by this model), and for
each statement with hypotheses a witness that meets them. -/

namespace Sys2Proof.Tests

open Sys2Proof.Machine

/-! ### Helpers -/

/-- A core that holds the seeds in phase `p`, with `input` to come. -/
def keyed (p : Phase) (input : List HostEvent) : State :=
  (({ State.reset with input := input } : State).writeKeys seed).setPhase p

/-- The same core built with the bitwise CRC circuit. -/
def bitwiseKeyed (p : Phase) (input : List HostEvent) : State := (keyed p input).withCrcImpl .bitwise

/-- A core right after power-on, with `input` to come. -/
def fresh (input : List HostEvent) : State := { State.reset with input := input }

/-- The next state, if there is one. -/
def after : Host.Outcome State Fault Refusal → Option State
  | .next t => some t
  | .fault _ => none
  | .refused _ => none

/-- The refusal, if there is one. -/
def refusal : Host.Outcome State Fault Refusal → Option Refusal
  | .next _ => none
  | .fault _ => none
  | .refused r => some r

/-- The fault, if there is one. -/
def faulted : Host.Outcome State Fault Refusal → Option Fault
  | .next _ => none
  | .fault f => some f
  | .refused _ => none

/-- The three keys, the phase and the response of a state. -/
def core (s : State) : Option Key × Option Key × Option Key × BitVec 2 × List Byte :=
  (s.key0, s.key1, s.key2, s.phase, s.response)

/-! ### WellFormed -/

/-- Ill-formed: the reserved INIT row with DATA 0x00, which is `init` itself (spec R51, R54). -/
theorem test_wf_refuses_init_data_zero : (Instr.reservedInitData 0x00#8).wf = false := by decide

theorem test_wf_accepts_init_data_one : (Instr.reservedInitData 0x01#8).wf = true := by decide

/-! ### Decoding (spec R51; 95_test_vectors.md 2.8) -/

theorem test_decode_init : decode 0b0000000100000000#16 = .init := by decide

theorem test_decode_absorb : decode 0b0000001001110100#16 = .absorb 0b01110100#8 := by decide

theorem test_decode_decrypt : decode 0b0000001110101011#16 = .decrypt 0b10101011#8 := by decide

theorem test_decode_init_data : decode 0b0000000100000001#16 = .reservedInitData 0b00000001#8 := by decide

theorem test_decode_op00 : decode 0b0000000011111111#16 = .reservedOp00 0b11111111#8 := by decide

theorem test_decode_op04_to_op07 :
    decode 0b0000010000000000#16 = .reservedOp04 0#10 ∧ decode 0b0000011111111111#16 = .reservedOp04 0x3FF#10 := by
  decide

theorem test_decode_op08_to_op0f :
    decode 0b0000100000000000#16 = .reservedOp08 0#11 ∧ decode 0b0000111111111111#16 = .reservedOp08 0x7FF#11 := by
  decide

theorem test_decode_op10_to_op1f :
    decode 0b0001000000000000#16 = .reservedOp10 0#12 ∧ decode 0b0001111111111111#16 = .reservedOp10 0xFFF#12 := by
  decide

theorem test_decode_op20_to_op3f :
    decode 0b0010000000000000#16 = .reservedOp20 0#13 ∧ decode 0b0011111111111111#16 = .reservedOp20 0x1FFF#13 := by
  decide

theorem test_decode_op40_to_op7f :
    decode 0b0100000000000000#16 = .reservedOp40 0#14 ∧ decode 0b0111111111111111#16 = .reservedOp40 0x3FFF#14 := by
  decide

theorem test_decode_op80_to_opff :
    decode 0b1000000000000000#16 = .reservedOp80 0#15 ∧ decode 0b1111111100000000#16 = .reservedOp80 0x7F00#15 := by
  decide

/-- A lone byte is no command; two bytes are one, OP first (spec R41, R42). -/
theorem test_decode_bytes :
    (decodeBytes [0x02#8]).toOption = none ∧
    (decodeBytes [0x02#8, 0x74#8, 0x03#8]).toOption = some (.absorb 0x74#8, [0x03#8]) := by decide

theorem test_table_word : decodeTableWord 16 0x0274 = some (.absorb 0x74#8) ∧ decodeTableWord 17 0x0274 = none := by
  decide

/-! ### The pure functions (95_test_vectors.md 2.1, 2.3, 2.6) -/

theorem test_crcstep_all_ones : crcStep 0xFFFFFFFF#32 0x00#8 = 0x2DFD1072#32 := by decide

theorem test_update_both_wraps :
    update { k0 := 0xFFFFFFFF#32, k1 := 0xFFFFFFFF#32, k2 := 0xFFFFFFFF#32 } 0xFF#8 =
      { k0 := 0x00FFFFFF#32, k1 := 0xF872FCF7#32, k2 := 0x9E9B6A5C#32 } := by decide

theorem test_update_addition_carries :
    update { k0 := 0x00000000#32, k1 := 0xFFFFFFFF#32, k2 := 0x00000000#32 } 0x00#8 =
      { k0 := 0x00000000#32, k1 := 0xF7F77BFC#32, k2 := 0x23D967BF#32 } := by decide

theorem test_keystream_upper_half_ignored :
    keystream 0xABCD1234#32 = 0xB5#8 ∧ keystream 0x0000ABCD#32 = 0x85#8 ∧ keystream 0x00008000#32 = 0x80#8 := by decide

theorem test_crc_table_entry : crcTable[0x0C]? = some 0x09B64C2B#32 := by decide

/-! ### The instructions (95_test_vectors.md 2.4, 2.5, 2.7, 2.9) -/

/-- INIT in STREAMING leaves the seeds in KEYING. -/
theorem test_init_in_streaming :
    (after (exec .init ((keyed .streaming []).writeKeys { k0 := 1#32, k1 := 2#32, k2 := 3#32 }))).map core =
      some (some 0x12345678#32, some 0x23456789#32, some 0x34567890#32, 0b01#2, []) := by decide

theorem test_absorb_t :
    (after (exec (.absorb 0x74#8) (keyed .keying []))).map core =
      some (some 0x09A4787D#32, some 0xEA2E201F#32, some 0xB0E4CE5A#32, 0b01#2, []) := by decide

/-- The same vector on the bitwise circuit. -/
theorem test_absorb_t_bitwise :
    (after (exec (.absorb 0x74#8) (bitwiseKeyed .keying []))).map core =
      some (some 0x09A4787D#32, some 0xEA2E201F#32, some 0xB0E4CE5A#32, 0b01#2, []) := by decide

theorem test_absorb_refused_by_phase :
    refusal (exec (.absorb 0x74#8) (fresh [])) = some .absorbBeforeInit ∧
    refusal (exec (.absorb 0x61#8) (keyed .streaming [])) = some .absorbAfterDecrypt := by decide

theorem test_decrypt_ff :
    (after (exec (.decrypt 0xFF#8) (keyed .keying []))).map core =
      some (some 0x32CA58B5#32, some 0xAC0B0137#32, some 0x2F5B2AFF#32, 0b10#2, [0x54#8]) := by decide

theorem test_decrypt_ff_bitwise :
    (after (exec (.decrypt 0xFF#8) (bitwiseKeyed .keying []))).map core =
      some (some 0x32CA58B5#32, some 0xAC0B0137#32, some 0x2F5B2AFF#32, 0b10#2, [0x54#8]) := by decide

theorem test_decrypt_refused_when_idle :
    refusal (exec (.decrypt 0x00#8) (fresh [])) = some .decryptBeforeInit := by decide

theorem test_reserved_refused_when_idle :
    refusal (step (fresh [.command 0x0400#16])) = some .reservedOpcode ∧
    refusal (step (fresh [.command 0x0101#16])) = some .reservedInitData := by decide

/-! ### Events and marks -/

/-- Reading key_0_o after reset and before init records the fault, and gives no value (95_test_vectors.md 2.9). -/
theorem test_unset_key_read_records_fault :
    (after (step (fresh [.read (.key .key0)]))).map (fun t => (t.faultMark, t.reads)) = some (some .unsetKeyRead, []) := by
  decide

/-- Two reads and a reset over one command: two readings, and the keys unset whichever the free choice is (spec R106,
R113). -/
theorem test_three_accesses_over_one_command :
    (after (step (keyed .keying [.during 0x0300#16 [.read (.key .key0), .reset, .read .phase]]))).map
      (fun t => (t.reads.length, t.draws, t.key0, t.phase)) = some (2, 3, none, 0b00#2) := by
  show (after (mapNext _ (resetOverlapping (Config.overlapCompletes 0 0) 0x0300#16 _))).map _ = _
  cases Config.overlapCompletes 0 0 <;> rfl

/-- The refused word of the last row of 95_test_vectors.md 2.9: the mark is set, the keys and the phase stay, and the
DECRYPT after it is not performed. -/
theorem test_refused_word_keeps_state :
    core (keyed .keying [.command 0x0400#16, .command 0x0300#16]).record =
      (some 0x12345678#32, some 0x23456789#32, some 0x34567890#32, 0b01#2, []) ∧
    refusal (step (keyed .keying [.command 0x0400#16, .command 0x0300#16]).record) = some .reservedOpcode := by decide

theorem test_reset_keeps_response :
    (after (step ((keyed .streaming [.reset]).emit 0xAB#8))).map core = some (none, none, none, 0b00#2, [0xAB#8]) := by
  decide

/-- 20_memory.md R46: one core's refusal stops no other. -/
theorem test_refusal_stops_no_other_core :
    ((System.powerOn 2 .table (by decide)).cores.map (fun s => (s.source, s.phase))) = [(0, 0b00#2), (1, 0b00#2)] ∧
    ((({ cores := [fresh [.command 0x0400#16], fresh [.command 0x0100#16]], some_core := by decide } : System).runSchedule
      [0, 1]).cores.map (fun s => (s.refusedMark.map RefusedMark.reason, s.phase))) =
      [(some .reservedOpcode, 0b00#2), (none, 0b01#2)] := by decide

/-- 30_encoding.md R59: `absorb 't'` assembles to 0x0274. -/
theorem test_assemble_absorb_t :
    assembleLine [' ', 'a', 'b', 's', 'o', 'r', 'b', ' ', '\'', 't', '\''] = some [0x0274#16] := by decide

/-- 30_encoding.md R60: `open "te"` and `decrypt_chunk [0x07, 88]`. -/
theorem test_assemble_macros :
    assembleLine ['o', 'p', 'e', 'n', ' ', '"', 't', 'e', '"'] = some [0x0100#16, 0x0274#16, 0x0265#16] ∧
    assembleLine ['d', 'e', 'c', 'r', 'y', 'p', 't', '_', 'c', 'h', 'u', 'n', 'k', ' ', '[', '0', 'x', '0', '7', ',', ' ',
      '8', '8', ']', ';'] = some [0x0307#16, 0x0358#16] := by decide

/-! ### Witnesses: each statement's hypotheses are met together -/

theorem witness_EncodeThenDecode : (Instr.reservedInitData 0xFF#8).wf = true := by decide

theorem witness_DecodeFollowsPseudocode :
    ((0x0100#16).extractLsb' 8 8 = 0x01#8 ∧ (0x0100#16).extractLsb' 0 8 = 0x00#8) ∧
    ((0x01FF#16).extractLsb' 8 8 = 0x01#8 ∧ (0x01FF#16).extractLsb' 0 8 ≠ 0x00#8) ∧
    (0x02FF#16).extractLsb' 8 8 = 0x02#8 ∧ (0x0300#16).extractLsb' 8 8 = 0x03#8 ∧
    ((0x0400#16).extractLsb' 8 8 ≠ 0x01#8 ∧ (0x0400#16).extractLsb' 8 8 ≠ 0x02#8 ∧
      (0x0400#16).extractLsb' 8 8 ≠ 0x03#8) := by decide

theorem witness_PartialWordRefusedTruncated :
    ∃ (s : State) (b : Byte) (rest : List HostEvent), s.refusedMark = none ∧ s.input = .lone b :: rest :=
  ⟨fresh [.lone 0x02#8], 0x02#8, [], rfl, rfl⟩

theorem witness_StepRunsDecodedCommand :
    ∃ (s : State) (w : CmdWord) (rest : List HostEvent), s.refusedMark = none ∧ s.input = .command w :: rest :=
  ⟨fresh [.command 0xFFFF#16, .reset], 0xFFFF#16, [.reset], rfl, rfl⟩

theorem witness_PlacedWordRunsNext :
    State.reset.refusedMark = none ∧ decodeTableWord 16 0x03FF = some (.decrypt 0xFF#8) := by decide

theorem witness_IdleCoreHoldsState : (keyed .streaming []).input = [] := rfl

theorem witness_InitLoadsSeedsInEveryPhase : (0x01#8 : Byte) ≠ 0x00#8 := by decide

theorem witness_AbsorbUpdatesKeysInKeying :
    ((keyed .keying []).phase = 0b01#2 ∧ (keyed .keying []).HoldsKeys seed) ∧ (fresh []).phase = 0b00#2 ∧
    (keyed .streaming []).phase = 0b10#2 := by decide

theorem witness_DecryptEmitsPlaintext :
    ((keyed .streaming []).phase = 0b10#2 ∧ (keyed .streaming []).HoldsKeys seed) ∧
    ((keyed .keying []).phase = 0b01#2 ∧ (keyed .keying []).HoldsKeys seed) ∧ (fresh []).phase = 0b00#2 := by decide

theorem witness_CommandsFaultOnBadReads :
    ({ State.reset with phase := 0b11#2 } : State).phase = 0b11#2 ∧
    (({ State.reset with phase := 0b01#2 } : State).key .key1 = none ∧
      ({ State.reset with phase := 0b01#2 } : State).phase = 0b01#2) ∧
    (({ State.reset with phase := 0b10#2 } : State).key .key2 = none ∧
      ({ State.reset with phase := 0b10#2 } : State).phase = 0b10#2) := by decide

theorem witness_ReservedOpcodesRefused :
    ((0x00FF#16).extractLsb' 8 8 = 0x00#8 ∧ 0x04#8 ≤ (0x0400#16).extractLsb' 8 8) ∧
    ∃ (s : State) (rest : List HostEvent), s.refusedMark = none ∧ s.input = .command 0x0400#16 :: rest :=
  ⟨by decide, fresh [.command 0x0400#16], [], rfl, rfl⟩

theorem witness_InitWithDataRefused :
    ((0x0101#16).extractLsb' 8 8 = 0x01#8 ∧ (0x0101#16).extractLsb' 0 8 ≠ 0x00#8) ∧
    ∃ (s : State) (rest : List HostEvent), s.refusedMark = none ∧ s.input = .command 0x0101#16 :: rest :=
  ⟨by decide, fresh [.command 0x0101#16], [], rfl, rfl⟩

theorem witness_PhaseChangesOnlyAsTabled :
    ((keyed .streaming [.command 0x0300#16]).Inv ∧ (keyed .streaming [.command 0x0300#16]).phase = Phase.streaming.code ∧
      (keyed .streaming [.command 0x0300#16]).refusedMark = none ∧
      (keyed .streaming [.command 0x0300#16]).input = [.command 0x0300#16]) ∧
    (∃ q, phaseTable (decode 0x0300#16) .streaming = .ok q) ∧
    (∃ r, phaseTable (decode 0x0261#16) .streaming = .error r) ∧
    (fresh [.reset]).input = [.reset] ∧
    ∃ t, step (keyed .streaming [.command 0x0100#16]) = .next t :=
  ⟨by decide, ⟨_, rfl⟩, ⟨_, rfl⟩, rfl, _, rfl⟩

theorem witness_ChecksRunInOrder :
    ((fresh [.command 0x0100#16]).Inv ∧ (fresh [.command 0x0100#16]).phase = Phase.idle.code ∧
      (fresh [.command 0x0100#16]).refusedMark = none ∧ (fresh [.command 0x0100#16]).input = [.command 0x0100#16]) ∧
    admission (.command 0x0100#16) .idle = none ∧ admission (.command 0x0400#16) .idle = some .reservedOpcode ∧
    admission (.lone 0x01#8) .idle = some .truncated := by decide

theorem witness_RefusedCommandHasNoStep :
    (∃ (s : State) (e : HostEvent) (rest : List HostEvent) (r : Refusal), s.input = e :: rest ∧ .reset ∉ e.accesses ∧ step s = .refused r) ∧
    ∃ (s : State) (m : RefusedMark) (w : CmdWord) (rest : List HostEvent), s.refusedMark = some m ∧ s.input = HostEvent.command w :: rest :=
  ⟨⟨fresh [.command 0x0274#16], .command 0x0274#16, [], .absorbBeforeInit, rfl, (by decide), rfl⟩,
    (fresh [.command 0x0000#16, .command 0x0100#16]).record,
    { reason := .reservedOpcode, position := 0, unit := .command 0x0000#16 }, 0x0100#16, [], rfl, rfl⟩

theorem witness_RefusedCommandUnderResetStillResets :
    ∃ (s : State) (w : CmdWord) (as : List Access) (rest : List HostEvent) (r : Refusal),
      s.input = .during w as :: rest ∧ .reset ∈ as ∧ s.refusedMark = none ∧
      exec (decode w) (s.accept (.during w as) rest) = .refused r :=
  ⟨fresh [.during 0x0400#16 [.read .phase, .reset]], 0x0400#16, [.read .phase, .reset], [], .reservedOpcode, rfl,
    by decide, rfl, rfl⟩

/-- A marked state with a command, a partial word, a reset or a phase read to come. -/
def marked (e : HostEvent) : State := (fresh [.command 0x0000#16, e]).record

theorem witness_MarkedRunPerformsNoCommand :
    (∃ m, (marked (.command 0x0100#16)).refusedMark = some m ∧
      (marked (.command 0x0100#16)).input = [.command 0x0100#16]) ∧
    (∃ m, (marked (.lone 0x01#8)).refusedMark = some m ∧ (marked (.lone 0x01#8)).input = [.lone 0x01#8]) ∧
    (∃ m, (marked .reset).refusedMark = some m ∧ (marked .reset).input = [.reset]) ∧
    (∃ m, (marked (.read .phase)).refusedMark = some m ∧ (marked (.read .phase)).input = [.read .phase] ∧
      (marked (.read .phase)).phase = Phase.idle.code) ∧
    (∃ m, (keyed .keying [.command 0x0000#16, .read (.key .key2)]).record.refusedMark = some m ∧
      (keyed .keying [.command 0x0000#16, .read (.key .key2)]).record.input = [.read (.key .key2)] ∧
      (keyed .keying [.command 0x0000#16, .read (.key .key2)]).record.key .key2 = some 0x34567890#32) ∧
    (∃ m, (marked (.read (.key .key0))).refusedMark = some m ∧
      (marked (.read (.key .key0))).input = [.read (.key .key0)] ∧ (marked (.read (.key .key0))).key .key0 = none) ∧
    (∃ m, (marked (.during 0x0100#16 [.read .phase])).refusedMark = some m ∧
      (marked (.during 0x0100#16 [.read .phase])).input = [.during 0x0100#16 [.read .phase]]) ∧
    ∃ m, (marked (.during 0x0100#16 [.reset])).refusedMark = some m ∧
      (marked (.during 0x0100#16 [.reset])).input = [.during 0x0100#16 [.reset]] :=
  ⟨⟨_, rfl, rfl⟩, ⟨_, rfl, rfl⟩, ⟨_, rfl, rfl⟩, ⟨_, rfl, rfl, rfl⟩, ⟨_, rfl, rfl, rfl⟩, ⟨_, rfl, rfl, rfl⟩, ⟨_, rfl, rfl⟩, _,
    rfl, rfl⟩

theorem witness_MarksAreSticky :
    (∃ m, (fresh [.command 0x0000#16, .reset]).record.refusedMark = some m) ∧
    (∃ f, (fresh [.read (.key .key2)]).record.faultMark = some f) ∧ ∃ t, step (fresh [.reset]) = .next t :=
  ⟨⟨_, rfl⟩, ⟨_, rfl⟩, _, rfl⟩

theorem witness_ResetUnsetsKeysAndIdles : (keyed .streaming [.reset]).input = [.reset] := rfl

theorem witness_StepKeepsInvariant :
    (keyed .keying [.command 0x0274#16]).Inv ∧ ∃ t, step (keyed .keying [.command 0x0274#16]) = .next t :=
  ⟨by decide, _, rfl⟩

theorem witness_RecordedRunKeepsInvariant : (keyed .streaming [.command 0x0261#16, .reset]).Inv := by decide

theorem witness_OnlyUnsetOutputReadsFault :
    (fresh [.read (.key .key1)]).Inv ∧ (fresh [.read (.key .key1)]).faultMark = none ∧
    (fresh [.read (.key .key1)]).record.faultMark = some .unsetKeyRead := by decide

theorem witness_KeyWritesAreSeedsOrUpdate :
    (∃ t, step (keyed .keying [.command 0x0274#16]) = .next t) ∧
    (∃ t, step (keyed .keying [.during 0x0300#16 [.read .phase]]) = .next t) ∧
    (∃ t, step (keyed .keying [.read .phase]) = .next t) ∧ (∃ t, step (keyed .keying [.reset]) = .next t) ∧
    (∃ t, step (keyed .keying [.during 0x0300#16 [.reset]]) = .next t) ∧ ∃ t, step (keyed .keying []) = .next t := by
  refine ⟨⟨_, rfl⟩, ⟨_, rfl⟩, ⟨_, rfl⟩, ⟨_, rfl⟩, ?_, ⟨_, rfl⟩⟩
  show ∃ t, mapNext _ (resetOverlapping (Config.overlapCompletes 0 0) 0x0300#16 _) = .next t
  cases Config.overlapCompletes 0 0 <;> exact ⟨_, rfl⟩

theorem witness_ResponseGrowsByDecryptOnly :
    (∃ t, step (keyed .keying [.command (encode (.decrypt 0x00#8))]) = .next t) ∧
    ∃ t, step (keyed .streaming [.during (encode (.decrypt 0xFF#8)) [.read .phase]]) = .next t := ⟨⟨_, rfl⟩, _, rfl⟩

theorem witness_OutputsShowRegisters :
    ((keyed .keying [.read (.key .key1)]).input = [.read (.key .key1)] ∧
      (keyed .keying [.read (.key .key1)]).key .key1 = some 0x23456789#32) ∧
    ((keyed .streaming [.read .phase]).input = [.read .phase] ∧
      (keyed .streaming [.read .phase]).phase = Phase.streaming.code) ∧
    ((fresh [.read (.key .key2)]).input = [.read (.key .key2)] ∧ (fresh [.read (.key .key2)]).key .key2 = none) := by
  decide

theorem witness_PhaseCodesAndBadPhase :
    ∃ (s : State) (rest : List HostEvent), s.input = HostEvent.read .phase :: rest ∧ s.phase = 0b11#2 :=
  ⟨{ fresh [.read .phase] with phase := 0b11#2 }, [], rfl, rfl⟩

theorem witness_OverlappingResetHasTwoOutcomes :
    ∃ (s t : State) (w : CmdWord) (as : List Access) (rest : List HostEvent), s.input = .during w as :: rest ∧
      .reset ∈ as ∧ s.refusedMark = none ∧ exec (decode w) (s.accept (.during w as) rest) = .next t :=
  ⟨keyed .keying [.during 0x0300#16 [.reset, .read .phase]], _, 0x0300#16, [.reset, .read .phase], [], rfl, by decide,
    rfl, rfl⟩

/-- Two reads over one command, that command performed, refused, or faulting. -/
theorem witness_OverlappingReadsAreDrawn :
    .reset ∉ [Access.read (.key .key0), .read .phase] ∧
    ((keyed .keying []).refusedMark = none ∧ ∃ t, exec (decode 0x0274#16)
      ((keyed .keying []).accept (.during 0x0274#16 [.read (.key .key0), .read .phase]) []) = .next t) ∧
    ((fresh []).refusedMark = none ∧ ∃ r, exec (decode 0x0274#16)
      ((fresh []).accept (.during 0x0274#16 [.read (.key .key0), .read .phase]) []) = .refused r) ∧
    ∃ (s : State) (f : Fault), s.refusedMark = none ∧ exec (decode 0x0274#16)
      (s.accept (.during 0x0274#16 [.read (.key .key0), .read .phase]) []) = .fault f :=
  ⟨by decide, ⟨rfl, _, rfl⟩, ⟨rfl, _, rfl⟩, { fresh [] with phase := 0b11#2 }, .badPhase, rfl, rfl⟩

theorem witness_KeystreamReadsBits15To2 :
    (0xABCD1234#32).extractLsb' 2 14 = (0x00001237#32).extractLsb' 2 14 := by decide

theorem witness_KeystreamWidthUnobservable : 16 ≤ 16 ∧ 16 ≤ 32 := by decide

theorem witness_FeedbackIsPlaintext :
    (keyed .keying []).phase = 0b01#2 ∧ (keyed .streaming []).phase = 0b10#2 ∧ (keyed .keying []).HoldsKeys seed ∧
    (keyed .streaming []).HoldsKeys seed := by decide

/-- Both a chunk of one byte in KEYING and the empty chunk in STREAMING. -/
theorem witness_ChunkDecryptsAsDec :
    ((keyed .keying (presented (decryptChunk [0x07#8]))).refusedMark = none ∧
      (keyed .keying (presented (decryptChunk [0x07#8]))).HoldsKeys seed ∧
      (keyed .keying (presented (decryptChunk [0x07#8]))).phase = 0b01#2 ∧
      (keyed .keying (presented (decryptChunk [0x07#8]))).input = presented (decryptChunk [0x07#8]) ++ []) ∧
    ((keyed .streaming []).refusedMark = none ∧ (keyed .streaming []).HoldsKeys seed ∧
      (keyed .streaming []).phase = 0b10#2 ∧ (keyed .streaming []).input = presented (decryptChunk []) ++ []) := by decide

theorem witness_OpenFoldsPassword :
    (keyed .streaming (presented (openMacro [0x74#8]))).refusedMark = none ∧
    (keyed .streaming (presented (openMacro [0x74#8]))).input = presented (openMacro [0x74#8]) ++ [] := by decide

/-- The round trip's program for a password and a message of one byte each. -/
def roundTripInput : List HostEvent :=
  presented (openMacro [0x70#8] ++ decryptChunk (encBytes (passwordKeys [0x70#8]) [0x48#8]).2)

theorem witness_EncryptedMessageRoundTrips :
    (fresh roundTripInput).refusedMark = none ∧
    (fresh roundTripInput).input =
      presented (openMacro [0x70#8] ++ decryptChunk (encBytes (passwordKeys [0x70#8]) [0x48#8]).2) ++ [] :=
  ⟨rfl, (List.append_nil roundTripInput).symm⟩

theorem witness_InitForgetsOldKeys :
    ((fresh [.command 0x0100#16]).input = [.command 0x0100#16] ∧
      (keyed .streaming [.command 0x0100#16]).input = (fresh [.command 0x0100#16]).input ∧
      (keyed .streaming [.command 0x0100#16]).draws = (fresh [.command 0x0100#16]).draws ∧
      (keyed .streaming [.command 0x0100#16]).source = (fresh [.command 0x0100#16]).source ∧
      (fresh [.command 0x0100#16]).refusedMark = none ∧ (keyed .streaming [.command 0x0100#16]).refusedMark = none) ∧
    (∃ t, run 1 (fresh [.command 0x0100#16]) = .next t) ∧
    ∃ r, run 2 (fresh [.command 0x0100#16, .command 0x0000#16]) = .refused r :=
  ⟨by decide, ⟨_, rfl⟩, _, rfl⟩

/-- Two cores: one that is refused, and one that runs and then, in a phase code that no run reaches, faults. -/
def twoCores : System :=
  { cores := [fresh [.command 0x0400#16], { fresh [.read .phase, .command 0x0200#16] with phase := 0b11#2 }]
    some_core := by decide }

theorem witness_InstancesRunAsAlone :
    (∃ s t, twoCores.cores[1]? = some s ∧ run ([0, 1, 7].count 1) s = .next t) ∧
    (∃ s r, twoCores.cores[0]? = some s ∧ run ([0, 1, 7].count 0) s = .refused r) ∧
    ∃ s f, twoCores.cores[1]? = some s ∧ run ([1, 0, 1].count 1) s = .fault f :=
  ⟨⟨_, _, rfl, rfl⟩, ⟨_, _, rfl, rfl⟩, _, _, rfl, rfl⟩

theorem witness_EventTouchesOneInstance : (0 : Nat) ≠ 1 := by decide

theorem witness_InstancesDrawApart : 0 < 3 ∧ (System.powerOn 3 .bitwise (by decide)).Apart := by decide

theorem witness_ParametersNeverChange : ∃ t, step (bitwiseKeyed .keying [.command 0x0274#16]) = .next t := ⟨_, rfl⟩

theorem witness_AssemblerSpellsCommands :
    (' ' :: ';' :: ['x'] = [] ∨ (∃ comment, ' ' :: ';' :: ['x'] = ';' :: comment) ∨
      ∃ comment, ' ' :: ';' :: ['x'] = ' ' :: ';' :: comment) ∧ 0x20 ≤ ';'.toNat ∧ ';'.toNat ≤ 0x7E :=
  ⟨.inr (.inr ⟨['x'], rfl⟩), by decide⟩

theorem witness_AssemblerRejects :
    (∃ ws, assembleLine ['i', 'n', 'i', 't', ';'] = some ws) ∧ (isBlank '0' = false ∧ '0' ≠ ';') ∧
    ((∀ c ∈ ['2', '5', '6'], '0'.toNat ≤ c.toNat ∧ c.toNat ≤ '9'.toNat) ∧
      255 < ['2', '5', '6'].foldl (fun n c => n * 10 + (c.toNat - '0'.toNat)) 0) ∧
    (hexDigit '0').isSome = true :=
  ⟨⟨_, rfl⟩, by decide, ⟨by simp, by simp⟩, rfl⟩

end Sys2Proof.Tests
end

/-! PROOFS. What a step may write to the key registers and to the response stream (spec 10_state.md). -/

namespace Sys2Proof.Proofs

open Sys2Proof.Machine

/-! ### The word of DECRYPT -/

/-- A word decodes to DECRYPT exactly when its OP is 0x03, and its operand is the word's DATA (spec R49, R52). -/
theorem decode_eq_decrypt_iff_fields (w : CmdWord) (c : Byte) :
    decode w = .decrypt c ↔ opField w = 0x03#8 ∧ dataField w = c := by
  by_cases hop : opField w = 0x03#8
  · simp [decode, hop]
  · simp only [hop, false_and, iff_false]
    unfold decode
    split_ifs <;> exact not_false

/-- The one word of `decrypt c` is the one the encoder writes (spec R51, R79). -/
theorem decode_eq_decrypt_iff (w : CmdWord) (c : Byte) : decode w = .decrypt c ↔ w = encode (.decrypt c) := by
  have hc := c.isLt
  simp only [decode_eq_decrypt_iff_fields, ← BitVec.toNat_inj, opField_toNat, dataField_toNat, encode_decrypt_toNat,
    BitVec.toNat_ofNat, Nat.reducePow, Nat.reduceMod]
  omega

/-! ### What a performed command does to the keys and the response -/

/-- The write to the keys that the command word `w` admits, from `s` to `t`: the seeds, or one UPDATE (spec R19). -/
def CommandWritesKeys (w : CmdWord) (s t : State) : Prop :=
  (decode w = .init ∧ t.HoldsKeys seed) ∨
  (∃ b k, decode w = .absorb b ∧ s.HoldsKeys k ∧ t.HoldsKeys (update k b)) ∨
  (∃ c k, decode w = .decrypt c ∧ s.HoldsKeys k ∧ t.HoldsKeys (update k (plaintext k c)))

/-- A performed command writes the keys only as its instruction may. -/
theorem perform_writes_keys {w : CmdWord} {s t : State} (h : perform w s = .next t) : CommandWritesKeys w s t := by
  obtain ⟨-, hx⟩ := (perform_eq_next_iff _ _ _).1 h
  obtain ⟨hi, rfl⟩ | ⟨b, k, hi, -, hk, rfl⟩ | ⟨c, k, hi, -, hk, rfl⟩ := exec_next_cases hx
  · exact .inl ⟨hi, s.writeKeys_holds seed⟩
  · exact .inr (.inl ⟨b, k, hi, hk, s.writeKeys_holds _⟩)
  · exact .inr (.inr ⟨c, k, hi, hk, s.writeKeys_holds _⟩)

/-- A performed command other than DECRYPT keeps the response; DECRYPT appends the plaintext (spec R25). -/
theorem perform_response_cases {w : CmdWord} {s t : State} (h : perform w s = .next t) :
    ((∀ c, w ≠ encode (.decrypt c)) ∧ t.response = s.response) ∨
    (∃ c k, w = encode (.decrypt c) ∧ s.HoldsKeys k ∧ t.response = s.response ++ [plaintext k c]) := by
  obtain ⟨-, hx⟩ := (perform_eq_next_iff _ _ _).1 h
  simp only [ne_eq, ← decode_eq_decrypt_iff]
  obtain ⟨hi, rfl⟩ | ⟨b, k, hi, -, -, rfl⟩ | ⟨c, k, hi, -, hk, rfl⟩ := exec_next_cases hx
  · exact .inl ⟨by simp [hi], rfl⟩
  · exact .inl ⟨by simp [hi], rfl⟩
  · exact .inr ⟨c, k, hi, hk, rfl⟩

/-- A performed DECRYPT appends one byte. -/
theorem perform_decrypt_response_length {c : Byte} {s t : State} (h : perform (encode (.decrypt c)) s = .next t) :
    t.response.length = s.response.length + 1 := by
  obtain ⟨hne, -⟩ | ⟨_, _, -, -, ht⟩ := perform_response_cases h
  · exact absurd rfl (hne c)
  · simp [ht]

/-- A command that no reset overlaps is performed, and the host has the readings of the reads over it (spec R113). -/
theorem handle_during_of_no_reset {w : CmdWord} {as : List Access} {n : Nat} {s t : State} (hr : .reset ∉ as)
    (h : handle (.during w as) n s = .next t) :
    ∃ u, perform w s = .next u ∧ t = u.noteReads (drawnReadings s.source n as) := by
  have hr' : hasReset as = false := by rwa [← Bool.not_eq_true, hasReset_iff]
  simpa [handle, performDuring, hr', mapNext_eq_next_iff] using h

/-- From `s` to `t` the response stays, or `e` carries a DECRYPT and its plaintext is appended (spec R25). -/
def GrowsByDecrypt (e : HostEvent) (s t : State) : Prop :=
  t.response = s.response ∨
  ∃ c k, s.HoldsKeys k ∧ t.response = s.response ++ [plaintext k c] ∧
    (e = .command (encode (.decrypt c)) ∨ ∃ as, e = .during (encode (.decrypt c)) as)

/-- What follows the command that an event carries, and keeps its response, grows the response by that command only. -/
theorem growsByDecrypt_of_perform {e : HostEvent} {w : CmdWord} {s u t : State}
    (he : e = .command w ∨ ∃ as, e = .during w as) (hu : perform w s = .next u) (ht : t.response = u.response) :
    GrowsByDecrypt e s t := by
  obtain ⟨-, hr⟩ | ⟨c, k, rfl, hk, hr⟩ := perform_response_cases hu
  · exact .inl (ht.trans hr)
  · exact .inr ⟨c, k, hk, ht.trans hr, he⟩

/-- Every event grows the response by DECRYPT only, also when a reset over the command applies after it (spec R106). -/
theorem handle_growsByDecrypt {e : HostEvent} {n : Nat} {s t : State} (h : handle e n s = .next t) :
    GrowsByDecrypt e s t := by
  obtain ⟨w, he, hp⟩ | ⟨-, rfl⟩ | ⟨o, -, rfl⟩ | ⟨w, as, -, -, -, rfl⟩ | ⟨w, as, u, he, -, -, hu, rfl⟩ |
    ⟨w, as, u, he, -, hu, rfl⟩ := handle_next_cases h
  · exact growsByDecrypt_of_perform (.inl he) hp rfl
  · exact .inl rfl
  · exact .inl rfl
  · exact .inl rfl
  · exact growsByDecrypt_of_perform (.inr ⟨as, he⟩) hu rfl
  · exact growsByDecrypt_of_perform (.inr ⟨as, he⟩) hu rfl

/-! ### The statements -/

/-- Settles O30, by what each event that answers a next state does to the keys. -/
theorem keyWritesAreSeedsOrUpdate : Obligations.KeyWritesAreSeedsOrUpdate := by
  intro s t h
  obtain ⟨hi, rfl⟩ | ⟨e, rest, hi, h⟩ := step_next_cases h
  · rw [hi]
    exact ⟨rfl, rfl, rfl⟩
  rw [hi]
  obtain ⟨w, rfl, hp⟩ | ⟨rfl, rfl⟩ | ⟨o, rfl, rfl⟩ | ⟨w, as, rfl, hr, -, rfl⟩ | ⟨w, as, u, rfl, hr, -, -, rfl⟩ |
    ⟨w, as, u, rfl, hr, hu, rfl⟩ := handle_next_cases h
  · exact (perform_writes_keys hp :)
  · exact ⟨rfl, rfl, rfl⟩
  · exact ⟨rfl, rfl, rfl⟩
  · exact (if_pos hr).mpr ⟨rfl, rfl, rfl⟩
  · exact (if_pos hr).mpr ⟨rfl, rfl, rfl⟩
  · exact (if_neg hr).mpr (perform_writes_keys hu :)

/-- Settles O31: a step grows the response only by the plaintext of a performed DECRYPT, and that always. -/
theorem responseGrowsByDecryptOnly : Obligations.ResponseGrowsByDecryptOnly := by
  constructor
  · intro s t h
    obtain ⟨-, rfl⟩ | ⟨e, rest, hi, h⟩ := step_next_cases h
    · exact .inl rfl
    obtain ht | ⟨c, k, hk, ht, rfl | ⟨as, rfl⟩⟩ := handle_growsByDecrypt h
    · exact .inl ht
    · exact .inr ⟨c, k, hk, ht, rest, .inl hi⟩
    · exact .inr ⟨c, k, hk, ht, rest, .inr ⟨as, hi⟩⟩
  · rintro s t c rest (hi | ⟨as, hr, hi⟩) h
    · rw [step_of_input hi] at h
      exact (perform_decrypt_response_length h :)
    · rw [step_of_input hi] at h
      obtain ⟨u, hu, rfl⟩ := handle_during_of_no_reset hr h
      exact (perform_decrypt_response_length hu :)

end Sys2Proof.Proofs

/-! PROOFS. Command words on a byte transport (spec 20_memory.md). -/

namespace Sys2Proof.Proofs

open Sys2Proof.Machine

/-- The two bytes sent for a word are framed as that word, whatever follows (spec R41). -/
@[simp] theorem framed_wordBytes_append (w : CmdWord) (more : List Byte) :
    framed (wordBytes w ++ more) = .command w :: framed more := by
  simp [wordBytes, framed]

/-- Words sent one after another are framed as those words, in order. -/
theorem framed_flatMap_wordBytes_append (ws : List CmdWord) (more : List Byte) :
    framed (ws.flatMap wordBytes ++ more) = ws.map HostEvent.command ++ framed more := by
  induction ws with
  | nil => rfl
  | cons w ws ih => simp [ih]

/-- Settles O6, by induction on the words sent: `wordBytes` names the two bytes the statement writes out. -/
theorem bytesCarryWordsOpcodeFirst : Obligations.BytesCarryWordsOpcodeFirst :=
  framed_flatMap_wordBytes_append

end Sys2Proof.Proofs

/-! PROOFS. What every command word decodes to, and the words of each row of the opcode map (spec 30_encoding.md). -/

namespace Sys2Proof.Proofs

open Sys2Proof.Machine

/-! ### The numbers of the words of each row -/

/-- The words of an instruction's row of the opcode map, as numbers: the first one, and the first one past the row. The
reserved INIT row begins after 0x0100 (spec R51). -/
def rowRange : Instr → Nat × Nat
  | .init => (0x0100, 0x0101)
  | .reservedInitData _ => (0x0101, 0x0200)
  | .absorb _ => (0x0200, 0x0300)
  | .decrypt _ => (0x0300, 0x0400)
  | .reservedOp00 _ => (0x0000, 0x0100)
  | .reservedOp04 _ => (0x0400, 0x0800)
  | .reservedOp08 _ => (0x0800, 0x1000)
  | .reservedOp10 _ => (0x1000, 0x2000)
  | .reservedOp20 _ => (0x2000, 0x4000)
  | .reservedOp40 _ => (0x4000, 0x8000)
  | .reservedOp80 _ => (0x8000, 0x10000)

/-- A word lies in the row that it decodes to. -/
theorem decode_rowRange (w : CmdWord) :
    (rowRange (decode w)).1 ≤ w.toNat ∧ w.toNat < (rowRange (decode w)).2 := by
  have hw := w.isLt
  simp only [decode, ← BitVec.toNat_inj, BitVec.lt_def, opField_toNat, dataField_toNat, BitVec.toNat_ofNat,
    Nat.reducePow, Nat.reduceMod]
  repeat' split
  all_goals
    simp only [rowRange]
    omega

/-- A mask that clears the low `k` bits compares the bits above them. -/
theorem and_mask_eq_iff (k : Nat) {w mask row : CmdWord} (hmask : BitVec.allOnes 16 <<< k = mask)
    (hrow : row.toNat = row.toNat / 2 ^ k * 2 ^ k) : w &&& mask = row ↔ w.toNat / 2 ^ k = row.toNat / 2 ^ k := by
  have hle : w.toNat / 2 ^ k * 2 ^ k < 2 ^ 16 := (Nat.div_mul_le_self _ _).trans_lt w.isLt
  rw [← hmask, ← BitVec.shiftLeft_ushiftRight, ← BitVec.toNat_inj, BitVec.toNat_shiftLeft, BitVec.toNat_ushiftRight,
    Nat.shiftLeft_eq, Nat.shiftRight_eq_div_pow, Nat.mod_eq_of_lt hle, hrow]
  simp

/-- Settles O4: a row's mask and match admit the words of its range, and the ranges of two rows do not meet. -/
theorem opcodeMapRowsSelect : Obligations.OpcodeMapRowsSelect := by
  intro w
  have hw := w.isLt
  have hrow := decode_rowRange w
  simp (disch := decide) only [and_mask_eq_iff 0, and_mask_eq_iff 8, and_mask_eq_iff 10, and_mask_eq_iff 11,
    and_mask_eq_iff 12, and_mask_eq_iff 13, and_mask_eq_iff 14, and_mask_eq_iff 15, ne_eq, ← BitVec.toNat_inj,
    BitVec.toNat_ofNat, Nat.reducePow, Nat.reduceMod, Nat.reduceDiv, Nat.div_one]
  generalize decode w = i at hrow ⊢
  cases i <;> simp [rowRange] at hrow ⊢ <;> omega

/-! ### The decoder's five cases -/

/-- A word is an instruction exactly when it is 0x0100, or its OP is 0x02 or 0x03 (spec R52). -/
theorem decode_isCommand_iff (w : CmdWord) :
    (decode w).isCommand = true ↔ w.toNat = 0x0100 ∨ 0x0200 ≤ w.toNat ∧ w.toNat < 0x0400 := by
  have hrow := decode_rowRange w
  generalize decode w = i at hrow ⊢
  cases i <;> simp [rowRange, Instr.isCommand] at hrow ⊢ <;> omega

/-- Any other OP is a reserved verdict, whichever row it falls in (spec R52, R53). -/
theorem decode_reserved_opcode {w : CmdWord} (h1 : opField w ≠ 0x01#8) (h2 : opField w ≠ 0x02#8)
    (h3 : opField w ≠ 0x03#8) :
    (decode w).isCommand = false ∧ ∀ s, exec (decode w) s = .refused .reservedOpcode := by
  rw [decode, if_neg h1, if_neg h2, if_neg h3]
  split_ifs <;> exact ⟨rfl, fun _ => rfl⟩

/-- The numbers of the instruction words: 0x0100, and the 512 from 0x0200 to 0x03FF (spec R52). -/
def commandWords : Finset Nat := insert 0x0100 (Finset.Ico 0x0200 0x0400)

theorem card_commandWords : commandWords.card = 513 := by
  rw [commandWords, Finset.card_insert_of_notMem (by simp), Nat.card_Ico]

theorem filter_isCommand_eq :
    (Finset.range 65536).filter (fun n => (decode (BitVec.ofNat 16 n)).isCommand = true) = commandWords := by
  ext n
  simp only [Finset.mem_filter, Finset.mem_range, decode_isCommand_iff, BitVec.toNat_ofNat, commandWords,
    Finset.mem_insert, Finset.mem_Ico]
  omega

theorem filter_reserved_eq :
    (Finset.range 65536).filter (fun n => (decode (BitVec.ofNat 16 n)).isCommand = false) =
      Finset.range 65536 \ commandWords := by
  simp only [← filter_isCommand_eq, ← Finset.filter_not, Bool.not_eq_true]

theorem card_range_sdiff_commandWords : (Finset.range 65536 \ commandWords).card = 65023 := by
  have hsub : commandWords ⊆ Finset.range 65536 := filter_isCommand_eq ▸ Finset.filter_subset _ _
  rw [Finset.card_sdiff_of_subset hsub, card_commandWords, Finset.card_range]

/-- Settles O3: the five cases are the decoder's branches, and the counts are those of `commandWords` and the rest. -/
theorem decodeFollowsPseudocode : Obligations.DecodeFollowsPseudocode := by
  refine ⟨fun w => ⟨fun hop hd => ?_, fun hop hd => ?_, fun hop => ?_, fun hop => ?_, decode_reserved_opcode⟩, ?_, ?_⟩
  · rw [decode, opField, dataField, if_pos hop, if_pos hd]
  · rw [decode, opField, dataField, if_pos hop, if_neg hd]
    exact ⟨rfl, fun _ => rfl⟩
  · simp [decode, opField, dataField, hop]
  · simp [decode, opField, dataField, hop]
  · rw [filter_isCommand_eq, card_commandWords]
  · rw [filter_reserved_eq, card_range_sdiff_commandWords]

end Sys2Proof.Proofs

/-! PROOFS. The lines the assembler accepts, from their operands up (spec 30_encoding.md section 3). Each lemma holds for
every rest of the line that ends it, so for every comment. -/

namespace Sys2Proof.Proofs

open Sys2Proof.Machine

/-! ### The end of a line -/

/-- What ends a line is empty, or begins with a blank or the comment's semicolon. -/
theorem head_of_lineEnds {c : Char} {cs : List Char} (h : lineEnds (c :: cs) = true) : c = ' ' ∨ c = '\t' ∨ c = ';' := by
  by_cases hb : isBlank c = true
  · simp [isBlank] at hb
    tauto
  · simp [lineEnds, skipBlanks, hb] at h
    exact .inr (.inr h)

/-- A comment ends a line, also after a space (spec R58). -/
theorem lineEnds_of_comment {tail : List Char}
    (h : tail = [] ∨ (∃ comment, tail = ';' :: comment) ∨ ∃ comment, tail = ' ' :: ';' :: comment) :
    lineEnds tail = true := by
  obtain rfl | ⟨comment, rfl⟩ | ⟨comment, rfl⟩ := h <;> rfl

/-! ### The three forms of an operand -/

/-- The assembler's decimal digits are the library's. -/
theorem decDigit_of_isDigit {c : Char} (h : c.isDigit = true) : decDigit c = some (c.toNat - '0'.toNat) :=
  if_pos (Char.isDigit_iff_toNat.1 h)

/-- Decimal digits are read up to the end of the line, with the value the library gives them. -/
theorem decimal_append {tail : List Char} (ht : lineEnds tail = true) (ds : List Char)
    (hds : ∀ c ∈ ds, c.isDigit = true) (acc : Nat) : decimal acc (ds ++ tail) = (Nat.ofDigitChars 10 ds acc, tail) := by
  induction ds generalizing acc with
  | nil =>
    cases tail with
    | nil => rfl
    | cons c cs => obtain rfl | rfl | rfl := head_of_lineEnds ht <;> rfl
  | cons d ds ih =>
    simp only [List.forall_mem_cons] at hds
    simp [decimal, decDigit_of_isDigit hds.1, ih hds.2, Nat.ofDigitChars_cons, Nat.mul_comm]

/-- An operand that begins with a decimal digit, and not with `0x`, is a decimal literal. -/
theorem imm8_of_isDigit {d : Char} {cs : List Char} (hd : d.isDigit = true) (hx : ∀ c ∈ cs.head?, c ≠ 'x') :
    imm8 (d :: cs) = decimalByte (d :: cs) := by
  unfold imm8
  split
  · rename_i heq
    obtain ⟨rfl, rfl⟩ := List.cons.inj heq
    exact absurd rfl (hx 'x' rfl)
  · rename_i heq
    obtain ⟨rfl, -⟩ := List.cons.inj heq
    exact absurd hd (by decide)
  · rfl

/-- No decimal literal that ends a line goes on with an `x`. -/
theorem ne_x_of_mem_head {ds tail : List Char} (ht : lineEnds tail = true) (hds : ∀ c ∈ ds, c.isDigit = true) :
    ∀ c ∈ (ds ++ tail).head?, c ≠ 'x' := by
  rintro c hc rfl
  cases ds with
  | cons d ds =>
    obtain rfl : d = 'x' := by simpa using hc
    exact absurd (hds 'x' (by simp)) (by decide)
  | nil =>
    obtain ⟨cs, rfl⟩ : ∃ cs, tail = 'x' :: cs := List.head?_eq_some_iff.1 hc
    simpa using head_of_lineEnds ht

/-- `<imm8>` reads a decimal literal (spec R58). -/
theorem imm8_toDigits {tail : List Char} (ht : lineEnds tail = true) (b : Byte) :
    imm8 (Nat.toDigits 10 b.toNat ++ tail) = some (b, tail) := by
  have hall : ∀ c ∈ Nat.toDigits 10 b.toNat, c.isDigit = true :=
    fun _ => Nat.isDigit_of_mem_toDigits (by decide) (by decide)
  have hval : Nat.ofDigitChars 10 (Nat.toDigits 10 b.toNat) 0 = b.toNat := Nat.ofDigitChars_ten_toDigits
  obtain ⟨d, ds, heq⟩ := List.exists_cons_of_ne_nil (Nat.toDigits_ne_nil (n := b.toNat) (b := 10))
  rw [heq, Nat.ofDigitChars_cons, Nat.mul_zero, Nat.zero_add] at hval
  rw [heq, List.forall_mem_cons] at hall
  have hb : b.toNat ≤ 255 := Nat.le_of_lt_succ b.isLt
  rw [heq, List.cons_append, imm8_of_isDigit hall.1 (ne_x_of_mem_head ht hall.2)]
  simp only [decimalByte, decDigit_of_isDigit hall.1, decimal_append ht ds hall.2, hval, if_pos hb, BitVec.ofNat_toNat,
    BitVec.setWidth_eq]

/-- The hexadecimal digit of a value reads as that value. -/
theorem hexDigit_hexChar {n : Nat} (h : n < 16) : hexDigit (hexChar n) = some n := by
  interval_cases n <;> rfl

/-- `<imm8>` reads `0xNN` (spec R58). -/
theorem imm8_spellByte (b : Byte) (tail : List Char) : imm8 (spellByte b ++ tail) = some (b, tail) := by
  have hb := b.isLt
  simp [spellByte, imm8, hexDigit_hexChar (show b.toNat / 16 < 16 by omega),
    hexDigit_hexChar (show b.toNat % 16 < 16 by omega), Nat.div_add_mod']

/-- `<imm8>` reads a printable character in single quotes, also a quote or a semicolon (spec R58). -/
theorem imm8_quoted {c : Char} (hlo : 0x20 ≤ c.toNat) (hhi : c.toNat ≤ 0x7E) (tail : List Char) :
    imm8 ('\'' :: c :: '\'' :: tail) = some (BitVec.ofNat 8 c.toNat, tail) := by
  simp [imm8, printable, hlo, hhi]

/-! ### A line, given what its operand reads as -/

/-- `init` assembles with nothing after it but blanks and a comment. -/
theorem assembleLine_init {tail : List Char} (ht : lineEnds tail = true) :
    assembleLine (['i', 'n', 'i', 't'] ++ tail) = some [0x0100#16] := by
  simp [assembleLine, skipBlanks, isBlank, parseStatement, ht, encode]

/-- An operand begins with no blank. -/
theorem skipBlanks_of_imm8 {text rest : List Char} {b : Byte} (h : imm8 text = some (b, rest)) :
    skipBlanks text = text := by
  cases text with
  | nil => rfl
  | cons c cs =>
    have hc : isBlank c = false := by
      by_contra hb
      obtain rfl | rfl : c = ' ' ∨ c = '\t' := by simpa [isBlank, or_iff_not_imp_left] using hb
      all_goals cases h
    simp [skipBlanks, hc]

/-- A mnemonic with an `<imm8>` reads it after one space. -/
theorem withImm8_of_imm8 {text rest : List Char} {b : Byte} (op : Byte → Instr) (h : imm8 text = some (b, rest))
    (hr : lineEnds rest = true) : withImm8 op (' ' :: text) = some [op b] := by
  simp [withImm8, operandText, isBlank, skipBlanks_of_imm8 h, h, hr]

theorem assembleLine_absorb {text rest : List Char} {b : Byte} (h : imm8 text = some (b, rest))
    (hr : lineEnds rest = true) :
    assembleLine (['a', 'b', 's', 'o', 'r', 'b', ' '] ++ text) = some [encode (.absorb b)] := by
  simp [assembleLine, skipBlanks, isBlank, parseStatement, withImm8_of_imm8 _ h hr]

theorem assembleLine_decrypt {text rest : List Char} {b : Byte} (h : imm8 text = some (b, rest))
    (hr : lineEnds rest = true) :
    assembleLine (['d', 'e', 'c', 'r', 'y', 'p', 't', ' '] ++ text) = some [encode (.decrypt b)] := by
  simp [assembleLine, skipBlanks, isBlank, parseStatement, withImm8_of_imm8 _ h hr]

/-! ### The statement -/

/-- The words of ABSORB and DECRYPT with an operand given as a number, such as a character's code. -/
theorem encode_absorb_ofNat {n : Nat} (h : n < 256) :
    encode (.absorb (BitVec.ofNat 8 n)) = BitVec.ofNat 16 (0x0200 + n) := by
  rw [← BitVec.toNat_inj, encode_absorb_toNat, BitVec.toNat_ofNat, BitVec.toNat_ofNat]
  omega

theorem encode_decrypt_ofNat {n : Nat} (h : n < 256) :
    encode (.decrypt (BitVec.ofNat 8 n)) = BitVec.ofNat 16 (0x0300 + n) := by
  rw [← BitVec.toNat_inj, encode_decrypt_toNat, BitVec.toNat_ofNat, BitVec.toNat_ofNat]
  omega

/-- Settles O53, by what `<imm8>` reads in each of its three forms. -/
theorem assemblerSpellsCommands : Obligations.AssemblerSpellsCommands := by
  intro tail htail
  have ht := lineEnds_of_comment htail
  refine ⟨assembleLine_init ht, fun b => ?_, fun c hlo hhi => ?_⟩
  · simp only [List.append_assoc]
    have hhex := imm8_spellByte b tail
    have hdec := imm8_toDigits ht b
    exact ⟨assembleLine_absorb hhex ht, assembleLine_absorb hdec ht, assembleLine_decrypt hhex ht,
      assembleLine_decrypt hdec ht⟩
  · have hq := imm8_quoted hlo hhi tail
    have hc : c.toNat < 256 := by omega
    exact ⟨encode_absorb_ofNat hc ▸ assembleLine_absorb hq ht, encode_decrypt_ofNat hc ▸ assembleLine_decrypt hq ht⟩

end Sys2Proof.Proofs

/-! PROOFS. The CRC step and UPDATE as functions, and the two commands that load and update the keys (spec
40_key_update.md). -/

namespace Sys2Proof.Proofs

open Sys2Proof.Machine

/-! ### The CRC step -/

theorem lowByte_eq_setWidth (v : Key) : lowByte v = v.setWidth 8 :=
  (BitVec.setWidth_eq_extractLsb' (by decide)).symm

/-- The generator's loop is its round iterated. -/
theorem crcRounds_eq_iterate (n : Nat) (c : Key) : crcRounds n c = crcRound^[n] c := by
  induction n generalizing c with
  | zero => rfl
  | succ n ih => exact ih (crcRound c)

/-- The printed table is the generator's values at 0 to 255, in order (spec R61). -/
theorem crcTable_eq_map_crcEntry : crcTable = (List.range 256).map (fun n => crcEntry (BitVec.ofNat 8 n)) := by
  decide +kernel

/-- Looking a byte up in the printed table gives the generated entry. -/
theorem crcTable_getElem? (n : Byte) : crcTable[n.toNat]? = some (crcEntry n) := by
  simp [crcTable_eq_map_crcEntry, List.getElem?_range n.isLt]

/-- Settles O36: the formula and the generator by their definitions, the table by `crcTable_eq_map_crcEntry`, and the
circuit as the other implementation of the step, which `crcStepBy_eq` reduces to the formula. -/
theorem crcStepTableAndBitwise : Obligations.CrcStepTableAndBitwise := by
  refine ⟨fun acc b => ?_, fun n => ?_, ?_, crcTable_getElem?, crcStepBy_eq .bitwise, by decide⟩
  · rw [← lowByte_eq_setWidth]
    rfl
  · exact crcRounds_eq_iterate 8 (byteOperand n)
  · rw [crcTable_eq_map_crcEntry, List.length_map, List.length_range]

/-- Settles O37, by running the generator on the check string and on three indices. -/
theorem crcCheckValues : Obligations.CrcCheckValues := by
  unfold Obligations.CrcCheckValues
  decide

/-! ### UPDATE -/

/-- Sum, product and increment on 32 bits reduce the exact value once. -/
theorem add_mul_add_toNat (x y m c : Key) :
    ((x + y) * m + c).toNat = ((x.toNat + y.toNat) * m.toNat + c.toNat) % 2 ^ 32 := by
  simp [BitVec.toNat_add, BitVec.toNat_mul]

theorem highByte_eq_ofNat (v : Key) : highByte v = BitVec.ofNat 8 (v.toNat / 2 ^ 24) := by
  rw [← highByte_toNat, BitVec.ofNat_toNat, BitVec.setWidth_eq]

/-- Settles O40, step by step: the model's equation for each key, with the selected bytes as numbers. -/
theorem updateIsFourOrderedSteps : Obligations.UpdateIsFourOrderedSteps := by
  refine fun k b => ⟨update_k0 k b, ?_, ?_⟩
  · rw [update_k1, add_mul_add_toNat, lcgMul_toNat, lcgInc_toNat, byteOperand_toNat, lowByte_toNat, update_k0]
  · rw [update_k2, highByte_eq_ofNat]

/-! ### The words with OP 0x01 and 0x02 -/

/-- The fields of a word given as the number OP * 256 + DATA (spec R48). -/
theorem fields_of_toNat {w : CmdWord} (op data : Byte) (h : w.toNat = op.toNat * 256 + data.toNat) :
    opField w = op ∧ dataField w = data := by
  have hd := data.isLt
  rw [← BitVec.toNat_inj, ← BitVec.toNat_inj, opField_toNat, dataField_toNat, h]
  omega

theorem decode_encode_reservedInitData {d : Byte} (hd : d ≠ 0x00#8) :
    decode (encode (.reservedInitData d)) = .reservedInitData d := by
  obtain ⟨hop, hdata⟩ := fields_of_toNat 0x01#8 d (encode_reservedInitData_toNat d)
  rw [decode, if_pos hop, hdata, if_neg hd]

theorem decode_encode_absorb (b : Byte) : decode (encode (.absorb b)) = .absorb b := by
  obtain ⟨hop, hdata⟩ := fields_of_toNat 0x02#8 b (encode_absorb_toNat b)
  simp [decode, hop, hdata]

theorem encode_absorb_eq_ofNat (b : Byte) : encode (.absorb b) = BitVec.ofNat 16 (0x0200 + b.toNat) := by
  simpa using encode_absorb_ofNat b.isLt

/-! ### INIT and ABSORB -/

/-- Settles O11: INIT has no phase check, and the word of OP 0x01 with other DATA decodes to its reserved row. -/
theorem initLoadsSeedsInEveryPhase : Obligations.InitLoadsSeedsInEveryPhase := by
  refine ⟨exec_init, by decide, fun d hd s => ?_⟩
  exact congrArg (exec · s) (decode_encode_reservedInitData hd)

/-- Settles O12, by what the phase-checked access to the keys does in each named phase. -/
theorem absorbUpdatesKeysInKeying : Obligations.AbsorbUpdatesKeysInKeying := by
  refine ⟨fun s b => ⟨fun k hp hk => ?_, fun hp => ?_, fun hp => ?_, ?_⟩, by decide⟩
  · rw [exec_absorb, guarded_eq_next_iff]
    exact ⟨.keying, k, hp, rfl, hk, rfl⟩
  · rw [exec_absorb, guarded_eq_refused_iff]
    exact ⟨.idle, hp, rfl⟩
  · rw [exec_absorb, guarded_eq_refused_iff]
    exact ⟨.streaming, hp, rfl⟩
  · rw [← encode_absorb_eq_ofNat, decode_encode_absorb]

end Sys2Proof.Proofs

/-! PROOFS. The keystream byte as a number, and DECRYPT in the phases that admit it (spec 41_decrypt.md). -/

namespace Sys2Proof.Proofs

open Sys2Proof.Machine

/-! ### The keystream byte -/

theorem ksTemp_toNat (k2 : Key) : (ksTemp k2).toNat = (k2 ||| 2#32).toNat % 2 ^ 16 := BitVec.toNat_setWidth ..

/-- The product of a 16-bit value and its pair, which differs from it in bit 0 only: largest at 0xFFFE and 0xFFFF. -/
theorem mul_xor_one_le {t : Nat} (ht : t < 2 ^ 16) : t * (t ^^^ 1) ≤ 0xFFFD0002 := by
  obtain he | ho := t.even_or_odd
  · have hlt : t ≤ 0xFFFE := by
      obtain ⟨m, rfl⟩ := he
      omega
    rw [Nat.xor_one_of_even he]
    exact Nat.mul_le_mul hlt (Nat.succ_le_succ hlt)
  · rw [Nat.xor_one_of_odd ho]
    exact Nat.mul_le_mul (Nat.le_of_lt_succ ht) (Nat.sub_le_sub_right (Nat.le_of_lt_succ ht) 1)

/-- `KS(k2)` over the naturals: the 32-bit product of the model loses nothing (spec R75). -/
theorem keystream_toNat (k2 : Key) :
    (keystream k2).toNat = (ksTemp k2).toNat * ((ksTemp k2).toNat ^^^ 1) / 2 ^ 8 % 2 ^ 8 := by
  have hexact : (ksTemp k2).toNat * ((ksTemp k2).toNat ^^^ 1) < 2 ^ 32 :=
    (mul_xor_one_le (ksTemp k2).isLt).trans_lt (by decide)
  rw [keystream, BitVec.toNat_setWidth, BitVec.toNat_ushiftRight, Nat.shiftRight_eq_div_pow, BitVec.toNat_mul,
    BitVec.toNat_setWidth_of_le (by decide), BitVec.toNat_setWidth_of_le (by decide), BitVec.toNat_xor]
  exact congrArg (· / 2 ^ 8 % 2 ^ 8) (Nat.mod_eq_of_lt hexact)

/-- Settles O42: the formula is `keystream_toNat`, and the bound is what makes its product exact. -/
theorem keystreamFormula : Obligations.KeystreamFormula := by
  refine ⟨fun k2 => ?_, by decide⟩
  rw [← ksTemp_toNat]
  exact ⟨keystream_toNat k2, mul_xor_one_le (ksTemp k2).isLt⟩

/-! ### DECRYPT -/

/-- DECRYPT in KEYING and STREAMING: the plaintext is fed back and emitted, and the phase is STREAMING (spec R79). -/
theorem exec_decrypt_of_holds {s : State} {k : KeyState} (c : Byte)
    (hp : s.phase = Phase.keying.code ∨ s.phase = Phase.streaming.code) (hk : s.HoldsKeys k) :
    exec (.decrypt c) s =
      .next (((s.writeKeys (update k (plaintext k c))).setPhase .streaming).emit (plaintext k c)) := by
  rw [exec_decrypt, guarded_eq_next_iff]
  obtain hp | hp := hp
  · exact ⟨.keying, k, hp, rfl, hk, rfl⟩
  · exact ⟨.streaming, k, hp, rfl, hk, rfl⟩

/-- Settles O13: KEYING and STREAMING by `exec_decrypt_of_holds`, IDLE by the phase check, the word as the encoder's. -/
theorem decryptEmitsPlaintext : Obligations.DecryptEmitsPlaintext := by
  refine ⟨fun s c => ⟨fun k hp hk => exec_decrypt_of_holds c hp hk, fun hp => ?_, ?_⟩, by decide, by decide⟩
  · rw [exec_decrypt, guarded_eq_refused_iff]
    exact ⟨.idle, hp, rfl⟩
  · rw [decode_eq_decrypt_iff, ← encode_decrypt_ofNat c.isLt, BitVec.ofNat_toNat, BitVec.setWidth_eq]

/-- Settles O45: the byte emitted and the byte absorbed are both `plaintext k c`; the byte lists are computed. -/
theorem feedbackIsPlaintext : Obligations.FeedbackIsPlaintext := by
  refine ⟨fun s c k hp hk => ?_, by decide +kernel, by decide +kernel⟩
  exact ⟨_, plaintext k c, exec_decrypt_of_holds c hp hk, rfl, s.writeKeys_holds _⟩

end Sys2Proof.Proofs

/-! PROOFS. What a command meets in each phase, by the table of spec R24, and the order of the checks (spec
60_exceptions.md). -/

namespace Sys2Proof.Proofs

open Sys2Proof.Machine

/-! ### The phase-checked access to the keys, in a known phase -/

theorem guarded_eq_refused_iff_of_phase {s : State} {p : Phase} (hp : s.phase = p.code)
    (check : Phase → Option Refusal) (act : KeyState → State → State) (r : Refusal) :
    guarded check act s = .refused r ↔ check p = some r := by
  rw [guarded_eq_refused_iff]
  constructor
  · rintro ⟨q, hq, hc⟩
    rwa [Phase.code_injective (hp.symm.trans hq)]
  · exact fun hc => ⟨p, hp, hc⟩

/-- Under the invariant, a check that turns IDLE away leaves no unset key to read: what it admits is performed. -/
theorem exists_guarded_eq_next {s : State} {p : Phase} {check : Phase → Option Refusal} (hinv : s.Inv)
    (hp : s.phase = p.code) (hidle : check .idle ≠ none) (hc : check p = none) (act : KeyState → State → State) :
    ∃ k, guarded check act s = .next (act k s) := by
  have hne : s.phase ≠ Phase.idle.code := by
    intro h
    obtain rfl := Phase.code_injective (hp.symm.trans h)
    exact hidle hc
  obtain ⟨k, hk⟩ := hinv.holds hne
  exact ⟨k, (guarded_eq_next_iff _ _ _ _).2 ⟨p, k, hp, hc, hk, rfl⟩⟩

/-! ### An instruction does what the phase table says -/

/-- An instruction is refused exactly where the phase table refuses it, and with the table's reason; no invariant is
needed, since the phase is checked before the keys are read (spec R24, R92). -/
theorem exec_eq_refused_iff {s : State} {p : Phase} (hp : s.phase = p.code) (i : Instr) (r : Refusal) :
    exec i s = .refused r ↔ phaseTable i p = .error r := by
  cases i with
  | init => simp [phaseTable]
  | absorb b =>
    rw [exec_absorb, guarded_eq_refused_iff_of_phase hp]
    cases p <;> simp [absorbCheck, phaseTable]
  | decrypt c =>
    rw [exec_decrypt, guarded_eq_refused_iff_of_phase hp]
    cases p <;> simp [decryptCheck, phaseTable]
  | _ =>
    rw [phaseTable, Except.error.injEq]
    exact iff_of_eq (Host.Outcome.refused.injEq ..)

/-- Under the invariant, an instruction that the phase table admits is performed, and leads to the table's phase (spec
R24, R92). -/
theorem exec_next_of_phaseTable {s : State} {p q : Phase} {i : Instr} (hinv : s.Inv) (hp : s.phase = p.code)
    (h : phaseTable i p = .ok q) : ∃ t, exec i s = .next t ∧ t.phase = q.code := by
  cases i with
  | init =>
    cases h
    exact ⟨_, rfl, rfl⟩
  | absorb b =>
    rw [exec_absorb]
    cases p with
    | keying =>
      cases h
      obtain ⟨k, hk⟩ := exists_guarded_eq_next (check := absorbCheck) hinv hp nofun rfl _
      exact ⟨_, hk, hp⟩
    | _ => cases h
  | decrypt c =>
    rw [exec_decrypt]
    cases p with
    | idle => cases h
    | _ =>
      cases h
      obtain ⟨k, hk⟩ := exists_guarded_eq_next (check := decryptCheck) hinv hp nofun rfl _
      exact ⟨_, hk, rfl⟩
  | _ => cases h

/-! ### The admission of a whole word is the phase table of its instruction -/

/-- The spec's `w >> 8` is the field OP (spec R48, R52). -/
theorem ushiftRight_eq_iff_opField (w : CmdWord) {op : Nat} (h : op < 256) :
    w >>> 8 = BitVec.ofNat 16 op ↔ opField w = BitVec.ofNat 8 op := by
  simp only [← BitVec.toNat_inj, opField_toNat, BitVec.toNat_ushiftRight, Nat.shiftRight_eq_div_pow, BitVec.toNat_ofNat]
  omega

/-- Of the words with OP 0x01, the one the spec admits is that of DATA 0x00 (spec R52). -/
theorem eq_init_word_iff {w : CmdWord} (hop : opField w = 0x01#8) : w = 0x0100#16 ↔ dataField w = 0x00#8 := by
  simp only [← BitVec.toNat_inj, opField_toNat, dataField_toNat, BitVec.toNat_ofNat] at hop ⊢
  omega

/-- Check 2 by the fields of the word (spec R52). -/
theorem decodeCheck_eq_fields (w : CmdWord) :
    decodeCheck w =
      if opField w = 0x01#8 then (if dataField w = 0x00#8 then none else some .reservedInitData)
      else if opField w = 0x02#8 ∨ opField w = 0x03#8 then none
      else some .reservedOpcode := by
  simp (disch := decide) only [decodeCheck, ushiftRight_eq_iff_opField]
  by_cases h1 : opField w = 0x01#8
  · simp only [h1, eq_init_word_iff h1]
  · simp only [h1, if_false]

/-- Check 3 by the word's OP: the phase check of ABSORB or of DECRYPT (spec R24). -/
theorem phaseCheck_eq_fields (w : CmdWord) (p : Phase) :
    phaseCheck w p =
      if opField w = 0x02#8 then absorbCheck p
      else if opField w = 0x03#8 then decryptCheck p
      else none := by
  cases p <;> simp (disch := decide) only [phaseCheck, ushiftRight_eq_iff_opField, absorbCheck, decryptCheck, ite_self]

/-- The reason in an entry of the phase table, if it is a refusal. -/
def tableRefusal : Except Refusal Phase → Option Refusal
  | .ok _ => none
  | .error r => some r

theorem tableRefusal_eq_some_iff (o : Except Refusal Phase) (r : Refusal) :
    tableRefusal o = some r ↔ o = .error r := by
  cases o <;> simp [tableRefusal]

theorem tableRefusal_eq_none_iff (o : Except Refusal Phase) : tableRefusal o = none ↔ ∃ q, o = .ok q := by
  cases o <;> simp [tableRefusal]

theorem phaseTable_of_reserved_opcode {w : CmdWord} (h1 : opField w ≠ 0x01#8) (h2 : opField w ≠ 0x02#8)
    (h3 : opField w ≠ 0x03#8) (p : Phase) : phaseTable (decode w) p = .error .reservedOpcode := by
  rw [decode, if_neg h1, if_neg h2, if_neg h3]
  split_ifs <;> rfl

/-- The spec's checks of a whole word, in their order, give what the phase table gives for the decoded instruction: the
decoder's five cases, one by one (spec R24, R52, R92). -/
theorem admission_command (w : CmdWord) (p : Phase) :
    admission (.command w) p = tableRefusal (phaseTable (decode w) p) := by
  rw [admission, decodeCheck_eq_fields, phaseCheck_eq_fields]
  by_cases h1 : opField w = 0x01#8
  · by_cases hd : dataField w = 0x00#8 <;> simp [decode, h1, hd, phaseTable, tableRefusal]
  by_cases h2 : opField w = 0x02#8
  · cases p <;> simp [decode, h2, phaseTable, tableRefusal, absorbCheck]
  by_cases h3 : opField w = 0x03#8
  · cases p <;> simp [decode, h3, phaseTable, tableRefusal, decryptCheck]
  · simp [h1, h2, h3, phaseTable_of_reserved_opcode h1 h2 h3, tableRefusal]

/-! ### The statement -/

/-- A whole word presented to an unmarked core is refused for the reason of its admission (spec R92). -/
theorem handle_command_eq_refused_iff {s : State} {p : Phase} (hp : s.phase = p.code) (hm : s.refusedMark = none)
    (w : CmdWord) (n : Nat) (r : Refusal) :
    handle (.command w) n s = .refused r ↔ admission (.command w) p = some r := by
  rw [handle, perform_of_unmarked hm, admission_command, tableRefusal_eq_some_iff, exec_eq_refused_iff hp]

/-- A whole word that passes its admission is performed (spec R92). -/
theorem handle_command_next_of_admission {s : State} {p : Phase} {w : CmdWord} (hinv : s.Inv) (hp : s.phase = p.code)
    (hm : s.refusedMark = none) (h : admission (.command w) p = none) (n : Nat) :
    ∃ t, handle (.command w) n s = .next t := by
  rw [admission_command, tableRefusal_eq_none_iff] at h
  obtain ⟨q, hq⟩ := h
  obtain ⟨t, ht, -⟩ := exec_next_of_phaseTable hinv hp hq
  exact ⟨t, (perform_eq_next_iff _ _ _).2 ⟨hm, ht⟩⟩

theorem handle_lone_of_unmarked {s : State} (hm : s.refusedMark = none) (b : Byte) (n : Nat) :
    handle (.lone b) n s = .refused .truncated := by
  simp only [handle, refusePartial, hm]

/-- Settles O18: a whole word is admitted by the phase table's entry for its instruction, which is what the instruction
then does; a lone byte is refused as check 1 says. -/
theorem checksRunInOrder : Obligations.ChecksRunInOrder := by
  intro s p e rest hinv hp hm hi he
  rw [step_of_input hi]
  obtain ⟨w, rfl⟩ | ⟨b, rfl⟩ := he
  · exact ⟨handle_command_eq_refused_iff (s := s.accept _ rest) hp hm w s.draws,
      fun h => handle_command_next_of_admission (s := s.accept _ rest) hinv hp hm h s.draws⟩
  · rw [handle_lone_of_unmarked (s := s.accept _ rest) hm]
    exact ⟨fun r => by simp [admission], nofun⟩

end Sys2Proof.Proofs

/-! PROOFS. Power-on, and reset between commands (spec 70_reset_and_hazards.md). -/

namespace Sys2Proof.Proofs

open Sys2Proof.Machine

/-- A reset is no command and uses no free value: taking it moves neither counter. -/
theorem accept_reset (s : State) (rest : List HostEvent) : s.accept .reset rest = { s with input := rest } := rfl

/-- A step that takes a reset applies it and does nothing else (spec R103). -/
theorem step_of_reset {s : State} {rest : List HostEvent} (h : s.input = .reset :: rest) :
    step s = .next { s with input := rest }.applyReset := by
  rw [step_of_input h, handle, accept_reset]

/-- Settles O24: each field of the power-on state is the one R105 names. -/
theorem powerOnState : Obligations.PowerOnState :=
  ⟨rfl, rfl, rfl, rfl, rfl, rfl, rfl⟩

/-- Settles O25, by `step_of_reset`: the fields that `applyReset` writes are those the statement names. -/
theorem resetUnsetsKeysAndIdles : Obligations.ResetUnsetsKeysAndIdles :=
  fun _ _ h => step_of_reset h

end Sys2Proof.Proofs

/-! PROOFS. The decoder and the encoder undo each other (spec 30_encoding.md section 2). -/

namespace Sys2Proof.Proofs

open Sys2Proof.Machine

/-! ### From a word to its instruction and back -/

/-- Every word decodes to a well-formed instruction. -/
theorem decode_wf (w : CmdWord) : (decode w).wf = true := by
  unfold decode
  split_ifs with _ hd
  case neg => simpa [Instr.wf] using hd
  all_goals rfl

/-- Decoding drops no bit: in each of the decoder's branches the encoder's number is the word's. -/
theorem encode_decode (w : CmdWord) : encode (decode w) = w := by
  have hw := w.isLt
  rw [← BitVec.toNat_inj]
  simp only [decode, ← BitVec.toNat_inj (x := opField w), ← BitVec.toNat_inj (x := dataField w), BitVec.lt_def,
    opField_toNat, dataField_toNat, BitVec.toNat_ofNat, Nat.reducePow, Nat.reduceMod]
  repeat' split
  all_goals
    simp only [encode_init_toNat, encode_absorb_toNat, encode_decrypt_toNat, encode_reservedInitData_toNat,
      encode_reservedOp00_toNat, encode_reservedOp04_toNat, encode_reservedOp08_toNat, encode_reservedOp10_toNat,
      encode_reservedOp20_toNat, encode_reservedOp40_toNat, encode_reservedOp80_toNat, dataField_toNat, lowBits_toNat]
    omega

/-! ### From an instruction to its word and back -/

/-- The free bits of a row are read back from a word whose other bits are the row's. -/
theorem lowBits_eq {k : Nat} {w : CmdWord} {x : BitVec k} (a : Nat) (h : w.toNat = 2 ^ k * a + x.toNat) :
    w.extractLsb' 0 k = x := by
  rw [← BitVec.toNat_inj, lowBits_toNat, h, Nat.mul_add_mod, Nat.mod_eq_of_lt x.isLt]

/-- From OP 0x04 on, the rows of the reserved opcodes are told apart by the size of the word (spec R51). -/
theorem decode_of_four_le_op {w : CmdWord} (h : 0x0400 ≤ w.toNat) :
    decode w =
      if w.toNat < 0x0800 then .reservedOp04 (w.extractLsb' 0 10)
      else if w.toNat < 0x1000 then .reservedOp08 (w.extractLsb' 0 11)
      else if w.toNat < 0x2000 then .reservedOp10 (w.extractLsb' 0 12)
      else if w.toNat < 0x4000 then .reservedOp20 (w.extractLsb' 0 13)
      else if w.toNat < 0x8000 then .reservedOp40 (w.extractLsb' 0 14)
      else .reservedOp80 (w.extractLsb' 0 15) := by
  have hdiv (m : Nat) : w.toNat / 256 < m ↔ w.toNat < m * 256 := Nat.div_lt_iff_lt_mul (by decide)
  have hop (m : Nat) (hm : m < 4) : w.toNat / 256 ≠ m := by omega
  simp only [decode, ← BitVec.toNat_inj (x := opField w), BitVec.lt_def, opField_toNat, BitVec.toNat_ofNat,
    Nat.reducePow, Nat.reduceMod, hdiv, Nat.reduceMul, hop 0 (by decide), hop 1 (by decide), hop 2 (by decide),
    hop 3 (by decide), if_false]

theorem decode_encode_reservedOp00 (x : BitVec 8) : decode (encode (.reservedOp00 x)) = .reservedOp00 x := by
  obtain ⟨hop, hdata⟩ := fields_of_toNat 0x00#8 x (encode_reservedOp00_toNat x)
  simp [decode, hop, hdata]

/-- Every well-formed instruction's word decodes to it: for each row, its word's number selects the row, and the row's
free bits are the operand. -/
theorem decode_encode {i : Instr} (h : i.wf = true) : decode (encode i) = i := by
  cases i with
  | init => decide
  | absorb b => exact decode_encode_absorb b
  | decrypt c => exact (decode_eq_decrypt_iff _ c).2 rfl
  | reservedInitData d => exact decode_encode_reservedInitData (by simpa [Instr.wf] using h)
  | reservedOp00 x => exact decode_encode_reservedOp00 x
  | reservedOp04 x =>
    have hn := encode_reservedOp04_toNat x
    have hx := x.isLt
    have hlow : (encode (.reservedOp04 x)).extractLsb' 0 10 = x := lowBits_eq 1 hn
    simp (disch := omega) only [decode_of_four_le_op, hlow, if_pos]
  | reservedOp08 x =>
    have hn := encode_reservedOp08_toNat x
    have hx := x.isLt
    have hlow : (encode (.reservedOp08 x)).extractLsb' 0 11 = x := lowBits_eq 1 hn
    simp (disch := omega) only [decode_of_four_le_op, hlow, if_pos, if_neg]
  | reservedOp10 x =>
    have hn := encode_reservedOp10_toNat x
    have hx := x.isLt
    have hlow : (encode (.reservedOp10 x)).extractLsb' 0 12 = x := lowBits_eq 1 hn
    simp (disch := omega) only [decode_of_four_le_op, hlow, if_pos, if_neg]
  | reservedOp20 x =>
    have hn := encode_reservedOp20_toNat x
    have hx := x.isLt
    have hlow : (encode (.reservedOp20 x)).extractLsb' 0 13 = x := lowBits_eq 1 hn
    simp (disch := omega) only [decode_of_four_le_op, hlow, if_pos, if_neg]
  | reservedOp40 x =>
    have hn := encode_reservedOp40_toNat x
    have hx := x.isLt
    have hlow : (encode (.reservedOp40 x)).extractLsb' 0 14 = x := lowBits_eq 1 hn
    simp (disch := omega) only [decode_of_four_le_op, hlow, if_pos, if_neg]
  | reservedOp80 x =>
    have hn := encode_reservedOp80_toNat x
    have hx := x.isLt
    have hlow : (encode (.reservedOp80 x)).extractLsb' 0 15 = x := lowBits_eq 1 hn
    simp (disch := omega) only [decode_of_four_le_op, hlow, if_neg]

/-! ### The statements -/

/-- Settles O1, row by row. -/
theorem encodeThenDecode : Obligations.EncodeThenDecode := fun _ h => decode_encode h

/-- Settles O2, branch by branch of the decoder. -/
theorem decodeThenEncode : Obligations.DecodeThenEncode := fun w => ⟨decode_wf w, encode_decode w⟩

/-- Settles O5, by decoding the seven words. -/
theorem sampleWordsDecode : Obligations.SampleWordsDecode := by
  unfold Obligations.SampleWordsDecode
  decide

end Sys2Proof.Proofs

/-! PROOFS. What each event leaves unchanged, what a stopped one leaves, and the overlapped commands: the rules that the
statements on marks, phases and runs cite (spec 10_state.md, 60_exceptions.md section 2). -/

namespace Sys2Proof.Proofs

open Sys2Proof.Machine

/-! ### What a performed event leaves unchanged -/

/-- A performed instruction writes the keys, the phase and the response, and nothing else. -/
theorem exec_frame {i : Instr} {s t : State} (h : exec i s = .next t) :
    t = { s with key0 := t.key0, key1 := t.key1, key2 := t.key2, phase := t.phase, response := t.response } := by
  obtain ⟨-, rfl⟩ | ⟨_, _, -, -, -, rfl⟩ | ⟨_, _, -, -, -, rfl⟩ := exec_next_cases h <;> rfl

theorem perform_frame {w : CmdWord} {s t : State} (h : perform w s = .next t) :
    t = { s with key0 := t.key0, key1 := t.key1, key2 := t.key2, phase := t.phase, response := t.response } :=
  exec_frame ((perform_eq_next_iff _ _ _).1 h).2

theorem perform_faultMark {w : CmdWord} {s t : State} (h : perform w s = .next t) : t.faultMark = s.faultMark := by
  rw [perform_frame h]

/-- An event that answers a next state leaves the refused mark, the parameters and the host's counters alone. -/
theorem handle_frame {e : HostEvent} {n : Nat} {s t : State} (h : handle e n s = .next t) :
    t = { s with
      key0 := t.key0, key1 := t.key1, key2 := t.key2, phase := t.phase, response := t.response
      faultMark := t.faultMark, reads := t.reads } := by
  obtain ⟨w, -, hp⟩ | ⟨-, rfl⟩ | ⟨o, -, rfl⟩ | ⟨w, as, -, -, -, rfl⟩ | ⟨w, as, u, -, -, -, hu, rfl⟩ |
    ⟨w, as, u, -, -, hu, rfl⟩ := handle_next_cases h
  · rw [perform_frame hp]
  · rfl
  · rfl
  · rfl
  · rw [perform_frame hu]; rfl
  · rw [perform_frame hu]; rfl

/-- Only a read of an output between commands records a fault and goes on (spec R9, R21, R22). -/
theorem handle_faultMark {e : HostEvent} {n : Nat} {s t : State} (h : handle e n s = .next t) :
    t.faultMark = s.faultMark ∨ ∃ o, e = .read o ∧ t.faultMark = s.faultMark.or (s.readFault o) := by
  obtain ⟨w, -, hp⟩ | ⟨-, rfl⟩ | ⟨o, rfl, rfl⟩ | ⟨w, as, -, -, -, rfl⟩ | ⟨w, as, u, -, -, -, hu, rfl⟩ |
    ⟨w, as, u, -, -, hu, rfl⟩ := handle_next_cases h
  · exact .inl (perform_faultMark hp)
  · exact .inl rfl
  · exact .inr ⟨o, rfl, rfl⟩
  · exact .inl rfl
  · exact .inl (perform_faultMark hu :)
  · exact .inl (perform_faultMark hu :)

/-! ### An event presented -/

theorem accept_command (s : State) (w : CmdWord) (rest : List HostEvent) :
    s.accept (.command w) rest = { s with input := rest, position := s.position + 1 } := rfl

/-- A command presented to an unmarked core is its instruction, at the state that has accepted it (spec R37, R43). -/
theorem step_of_command {s : State} {w : CmdWord} {rest : List HostEvent} (hm : s.refusedMark = none)
    (hi : s.input = .command w :: rest) :
    step s = exec (decode w) { s with input := rest, position := s.position + 1 } := by
  rw [step_of_input hi, handle, accept_command]
  exact perform_of_unmarked (s := { s with input := rest, position := s.position + 1 }) hm w

theorem step_of_read {s : State} {o : OutputPort} {rest : List HostEvent} (hi : s.input = .read o :: rest) :
    step s = .next { s.readOutput o with input := rest } := by
  rw [step_of_input hi]
  rfl

/-! ### What a read of an output between commands gives -/

theorem shown_of_set {s : State} {i : KeyIndex} {v : Key} (h : s.key i = some v) :
    s.shown (.key i) = some (.key i v) := by
  simp [State.shown, h]

theorem shown_of_unset {s : State} {i : KeyIndex} (h : s.key i = none) : s.shown (.key i) = none := by
  simp [State.shown, h]

theorem readFault_of_set {s : State} {i : KeyIndex} {v : Key} (h : s.key i = some v) :
    s.readFault (.key i) = none := by
  simp [State.readFault, h]

theorem readFault_of_unset {s : State} {i : KeyIndex} (h : s.key i = none) :
    s.readFault (.key i) = some .unsetKeyRead := by
  simp [State.readFault, h]

theorem readFault_of_phase {s : State} {p : Phase} (h : s.phase = p.code) : s.readFault .phase = none := by
  simp [State.readFault, h]

/-! ### A command with accesses over it -/

theorem hasReset_eq_false {as : List Access} (h : .reset ∉ as) : hasReset as = false := by
  rwa [← Bool.not_eq_true, hasReset_iff]

/-- Reads over a command leave it its own outcome, with the draws listed (spec R113). -/
theorem handle_during_of_reads {as : List Access} (hr : .reset ∉ as) (w : CmdWord) (n : Nat) (s : State) :
    handle (.during w as) n s = mapNext (·.noteReads (drawnReadings s.source n as)) (perform w s) := by
  rw [handle, performDuring, hasReset_eq_false hr]
  rfl

/-- A reset over a command: the command completes and then reset applies, or it is lost (spec R106). -/
theorem handle_during_of_reset {as : List Access} (hr : .reset ∈ as) (w : CmdWord) (n : Nat) (s : State) :
    handle (.during w as) n s = mapNext (·.noteReads (drawnReadings s.source n as))
      (if Config.overlapCompletes s.source n = true then mapNext State.applyReset (perform w s)
        else .next s.applyReset) := by
  rw [handle, performDuring, if_pos ((hasReset_iff as).2 hr), resetOverlapping]

/-- A command that only reads overlap has its own outcome, the draws listed. -/
theorem step_of_reads_over {s : State} {w : CmdWord} {as : List Access} {rest : List HostEvent}
    (hi : s.input = .during w as :: rest) (hr : .reset ∉ as) :
    step s = mapNext (·.noteReads (drawnReadings s.source s.draws as)) (perform w (s.accept (.during w as) rest)) := by
  rw [step_of_input hi, handle_during_of_reads hr, State.accept_source]

/-- A command that an overlapping reset lets complete, and the reset after it (spec R106). -/
theorem step_of_completed {s : State} {w : CmdWord} {as : List Access} {rest : List HostEvent}
    (hi : s.input = .during w as :: rest) (hr : .reset ∈ as) (hc : Config.overlapCompletes s.source s.draws = true) :
    step s = mapNext (fun t => t.applyReset.noteReads (drawnReadings s.source s.draws as))
      (perform w (s.accept (.during w as) rest)) := by
  rw [step_of_input hi, handle_during_of_reset hr, State.accept_source, if_pos hc]
  cases perform w (s.accept (.during w as) rest) <;> rfl

/-- A command that an overlapping reset loses: only the reset acts (spec R106). -/
theorem step_of_lost {s : State} {w : CmdWord} {as : List Access} {rest : List HostEvent}
    (hi : s.input = .during w as :: rest) (hr : .reset ∈ as) (hc : Config.overlapCompletes s.source s.draws = false) :
    step s = .next ((s.accept (.during w as) rest).applyReset.noteReads (drawnReadings s.source s.draws as)) := by
  rw [step_of_input hi, handle_during_of_reset hr, State.accept_source, if_neg (by simp [hc]), mapNext_next]

theorem drawnReadings_length {as : List Access} (hr : .reset ∉ as) (source n : Nat) :
    (drawnReadings source n as).length = as.length := by
  induction as generalizing n with
  | nil => rfl
  | cons a as ih =>
    obtain ⟨hne, has⟩ : .reset ≠ a ∧ .reset ∉ as := by simpa using hr
    cases a with
    | reset => exact absurd rfl hne
    | read o => simp [drawnReadings, ih has]

/-! ### Where an event stops -/

theorem mapNext_eq_fault_iff (f : State → State) (o : Host.Outcome State Fault Refusal) (r : Fault) :
    mapNext f o = .fault r ↔ o = .fault r := by
  cases o <;> simp

/-- An event is refused where its command is, whole or partial. -/
theorem handle_refused_cases {e : HostEvent} {n : Nat} {s : State} {r : Refusal} (h : handle e n s = .refused r) :
    (∃ w, perform w s = .refused r) ∨ refusePartial s = .refused r := by
  cases e with
  | command w => exact .inl ⟨w, h⟩
  | lone b => exact .inr h
  | reset => cases h
  | read o => cases h
  | during w as =>
    by_cases hr : .reset ∈ as
    · rw [handle_during_of_reset hr, mapNext_eq_refused_iff] at h
      split at h
      · exact .inl ⟨w, (mapNext_eq_refused_iff _ _ _).1 h⟩
      · cases h
    · rw [handle_during_of_reads hr, mapNext_eq_refused_iff] at h
      exact .inl ⟨w, h⟩

/-- An event stops with a fault only where its command does. -/
theorem handle_fault_cases {e : HostEvent} {n : Nat} {s : State} {f : Fault} (h : handle e n s = .fault f) :
    ∃ w, perform w s = .fault f := by
  cases e with
  | command w => exact ⟨w, h⟩
  | lone b =>
    simp only [handle, refusePartial] at h
    split at h <;> cases h
  | reset => cases h
  | read o => cases h
  | during w as =>
    by_cases hr : .reset ∈ as
    · rw [handle_during_of_reset hr, mapNext_eq_fault_iff] at h
      split at h
      · exact ⟨w, (mapNext_eq_fault_iff _ _ _).1 h⟩
      · cases h
    · rw [handle_during_of_reads hr, mapNext_eq_fault_iff] at h
      exact ⟨w, h⟩

/-! ### What the record of an event is -/

/-- The record is the next state where there is one, else the accepted state with one mark set, settled (spec R93). -/
theorem record_cases (s : State) :
    step s = .next s.record ∨
    (∃ e rest f, s.input = e :: rest ∧ step s = .fault f ∧
      s.record = ((s.accept e rest).markFault (some f)).settle s.draws e) ∨
    (∃ e rest r, s.input = e :: rest ∧ step s = .refused r ∧
      s.record =
        ((s.accept e rest).markRefused { reason := r, position := s.position, unit := e }).settle s.draws e) := by
  cases hi : s.input with
  | nil => exact .inl (by rw [record_of_no_input hi, step_of_no_input hi])
  | cons e rest =>
    cases hs : step s with
    | next t => exact .inl (by rw [record_of_next hs])
    | fault f => exact .inr (.inl ⟨e, rest, f, rfl, rfl, record_of_fault hi hs⟩)
    | refused r => exact .inr (.inr ⟨e, rest, r, rfl, rfl, record_of_refused hi hs⟩)

/-- Settling a stopped event touches the keys, the phase and the list of readings only. -/
theorem settle_frame (s : State) (n : Nat) (e : HostEvent) :
    s.settle n e = { s with
      key0 := (s.settle n e).key0, key1 := (s.settle n e).key1, key2 := (s.settle n e).key2
      phase := (s.settle n e).phase, reads := (s.settle n e).reads } := by
  obtain ⟨-, h⟩ | ⟨-, h⟩ := settle_cases s n e <;> rw [h] <;> rfl

/-- What a refused event with no reset over it leaves: the mark, and the host's side (spec R93, R113). -/
theorem record_of_refused_of_no_reset {s : State} {e : HostEvent} {rest : List HostEvent} {r : Refusal}
    (hi : s.input = e :: rest) (hr : .reset ∉ e.accesses) (h : step s = .refused r) :
    s.record = { s with
      input := rest
      position := s.position + e.commands
      draws := s.draws + e.draws
      reads := s.reads ++ drawnReadings s.source s.draws e.accesses
      refusedMark := s.refusedMark.or (some { reason := r, position := s.position, unit := e }) } := by
  rw [record_of_refused hi h, State.settle, hasReset_eq_false hr]
  rfl

/-- What a refused event with a reset over it leaves: the reset applies beside the mark (spec R93, R106). -/
theorem record_of_refused_of_reset {s : State} {e : HostEvent} {rest : List HostEvent} {r : Refusal}
    (hi : s.input = e :: rest) (hr : .reset ∈ e.accesses) (h : step s = .refused r) :
    s.record = { s.applyReset with
      input := rest
      position := s.position + e.commands
      draws := s.draws + e.draws
      reads := s.reads ++ drawnReadings s.source s.draws e.accesses
      refusedMark := s.refusedMark.or (some { reason := r, position := s.position, unit := e }) } := by
  rw [record_of_refused hi h, State.settle, (hasReset_iff _).2 hr]
  rfl

/-- What a refused event with nothing over it leaves in an unmarked core. -/
theorem record_of_refused_alone_of_unmarked {s : State} {e : HostEvent} {rest : List HostEvent} {r : Refusal}
    (hm : s.refusedMark = none) (hi : s.input = e :: rest) (ha : e.accesses = []) (h : step s = .refused r) :
    s.record = { s with
      input := rest
      position := s.position + e.commands
      refusedMark := some { reason := r, position := s.position, unit := e } } := by
  rw [record_of_refused_of_no_reset hi (by simp [ha]) h]
  simp [ha, hm, HostEvent.draws, drawnReadings]

/-- What a refused event with no reset over it leaves in a marked core: the first mark stays (spec R93). -/
theorem record_of_refused_of_marked {s : State} {m : RefusedMark} {e : HostEvent} {rest : List HostEvent}
    {r : Refusal} (hm : s.refusedMark = some m) (hi : s.input = e :: rest) (hr : .reset ∉ e.accesses)
    (h : step s = .refused r) :
    s.record = { s with
      input := rest
      position := s.position + e.commands
      draws := s.draws + e.draws
      reads := s.reads ++ drawnReadings s.source s.draws e.accesses } := by
  rw [record_of_refused_of_no_reset hi hr h, hm, Option.some_or, ← hm]

/-- What a refused event with nothing over it leaves in a marked core. -/
theorem record_of_refused_alone_of_marked {s : State} {m : RefusedMark} {e : HostEvent} {rest : List HostEvent}
    {r : Refusal} (hm : s.refusedMark = some m) (hi : s.input = e :: rest) (ha : e.accesses = [])
    (h : step s = .refused r) : s.record = { s with input := rest, position := s.position + e.commands } := by
  rw [record_of_refused_of_marked hm hi (by simp [ha]) h]
  simp [ha, HostEvent.draws, drawnReadings]

end Sys2Proof.Proofs

/-! PROOFS. The invariant of the keys and the phase, kept by every step and through every stop (spec 10_state.md
section 6), and the faults it leaves possible. -/

namespace Sys2Proof.Proofs

open Sys2Proof.Machine

/-! ### The invariant is kept -/

/-- A performed instruction leaves keys in KEYING or STREAMING. -/
theorem exec_inv {i : Instr} {s t : State} (h : exec i s = .next t) : t.Inv := by
  obtain ⟨-, rfl⟩ | ⟨b, k, -, hp, -, rfl⟩ | ⟨c, k, -, -, -, rfl⟩ := exec_next_cases h
  · exact State.inv_of_holds (s.writeKeys_holds seed) (p := .keying) rfl nofun
  · exact State.inv_of_holds (s.writeKeys_holds _) (p := .keying) hp nofun
  · exact State.inv_of_holds (s.writeKeys_holds _) (p := .streaming) rfl nofun

theorem perform_inv {w : CmdWord} {s t : State} (h : perform w s = .next t) : t.Inv :=
  exec_inv ((perform_eq_next_iff _ _ _).1 h).2

/-- An event that answers a next state keeps the invariant; the host's side and the fault mark are not in it. -/
theorem handle_inv {e : HostEvent} {n : Nat} {s t : State} (hs : s.Inv) (h : handle e n s = .next t) : t.Inv := by
  obtain ⟨w, -, hp⟩ | ⟨-, rfl⟩ | ⟨o, -, rfl⟩ | ⟨w, as, -, -, -, rfl⟩ | ⟨w, as, u, -, -, -, -, rfl⟩ |
    ⟨w, as, u, -, -, hu, rfl⟩ := handle_next_cases h
  · exact perform_inv hp
  · exact s.applyReset_inv
  · exact hs
  · exact s.applyReset_inv
  · exact u.applyReset_inv
  · exact (perform_inv hu :)

theorem step_inv {s t : State} (hs : s.Inv) (h : step s = .next t) : t.Inv := by
  obtain ⟨-, rfl⟩ | ⟨e, rest, -, h⟩ := step_next_cases h
  · exact hs
  · exact handle_inv (s := s.accept e rest) hs h

/-- A stopped event either resets, or leaves the keys and the phase alone. -/
theorem settle_inv {s : State} (hs : s.Inv) (n : Nat) (e : HostEvent) : (s.settle n e).Inv := by
  obtain ⟨-, h⟩ | ⟨-, h⟩ := settle_cases s n e <;> rw [h]
  · exact s.applyReset_inv
  · exact hs

theorem record_inv {s : State} (hs : s.Inv) : s.record.Inv := by
  obtain h | ⟨e, rest, f, -, -, h⟩ | ⟨e, rest, r, -, -, h⟩ := record_cases s
  · exact step_inv hs h
  · rw [h]
    exact settle_inv (s := (s.accept e rest).markFault (some f)) hs _ e
  · rw [h]
    exact settle_inv (s := (s.accept e rest).markRefused _) hs _ e

/-! ### The faults under the invariant -/

/-- Under the invariant an instruction is performed or refused, as the phase table says, and never faults. -/
theorem exec_ne_fault {s : State} (hs : s.Inv) (i : Instr) (f : Fault) : exec i s ≠ .fault f := by
  intro h
  obtain ⟨p, hp⟩ := exists_phase_of_ne_three hs.1
  cases ht : phaseTable i p with
  | ok q =>
    obtain ⟨t, hx, -⟩ := exec_next_of_phaseTable hs hp ht
    rw [hx] at h
    cases h
  | error r =>
    rw [(exec_eq_refused_iff hp i r).2 ht] at h
    cases h

theorem step_ne_fault {s : State} (hs : s.Inv) (f : Fault) : step s ≠ .fault f := by
  intro h
  cases hi : s.input with
  | nil =>
    rw [step_of_no_input hi] at h
    cases h
  | cons e rest =>
    rw [step_of_input hi] at h
    obtain ⟨w, hw⟩ := handle_fault_cases h
    unfold perform at hw
    split at hw
    · cases hw
    · exact exec_ne_fault (s := s.accept e rest) hs _ f hw

/-- Under the invariant a read of an output faults only for an unset key, in IDLE. -/
theorem readFault_of_inv {s : State} (hs : s.Inv) {o : OutputPort} {f : Fault} (h : s.readFault o = some f) :
    f = .unsetKeyRead ∧ s.phase = Phase.idle.code ∧ ∃ i, o = .key i ∧ s.key i = none := by
  obtain ⟨i, rfl, hk, rfl⟩ | ⟨-, hp, -⟩ := (State.readFault_eq_some_iff s o f).1 h
  · refine ⟨rfl, ?_, i, rfl, hk⟩
    by_contra hp
    obtain ⟨k, h0, h1, h2⟩ := hs.holds hp
    cases i <;> simp_all [State.key]
  · exact absurd hp hs.1

/-! ### The statements -/

/-- Settles O27, event by event. -/
theorem stepKeepsInvariant : Obligations.StepKeepsInvariant := fun _ _ hs h => step_inv hs h

/-- Settles O28, by induction on the number of recorded events. -/
theorem recordedRunKeepsInvariant : Obligations.RecordedRunKeepsInvariant :=
  fun _ n hs => Function.Iterate.rec State.Inv hs (fun _ => record_inv) n

/-- Settles O26, by evaluation. -/
theorem powerOnMeetsInvariant : Obligations.PowerOnMeetsInvariant := by
  unfold Obligations.PowerOnMeetsInvariant
  decide

/-- Settles O29: a refusal records no fault, and of the events that go on only an output read does. -/
theorem onlyUnsetOutputReadsFault : Obligations.OnlyUnsetOutputReadsFault := by
  refine fun s hs => ⟨step_ne_fault hs, fun f hnone hf => ?_⟩
  obtain h | ⟨e, rest, g, -, hg, -⟩ | ⟨e, rest, r, -, -, h⟩ := record_cases s
  · obtain ⟨-, h⟩ | ⟨e, rest, hi, h⟩ := step_next_cases h
    · simp [h, hnone] at hf
    obtain h | ⟨o, rfl, h⟩ := handle_faultMark h
    · simp [h, hnone] at hf
    have hread : (s.accept (.read o) rest).readFault o = some f := by simpa [h, hnone] using hf
    obtain ⟨hu, hp, i, rfl, hk⟩ := readFault_of_inv (s := s.accept _ rest) hs hread
    exact ⟨hu, hp, i, rest, hi, hk⟩
  · exact absurd hg (step_ne_fault hs g)
  · rw [h, settle_frame] at hf
    exact absurd (hnone.symm.trans hf) nofun

end Sys2Proof.Proofs

/-! PROOFS. Refused commands, the phase table, and the marks: what a refusal leaves, and what a set mark does to the
rest of the run (spec 60_exceptions.md section 2, 10_state.md sections 2 and 5). -/

namespace Sys2Proof.Proofs

open Sys2Proof.Machine

/-! ### Refused for its word or its phase -/

/-- An unmarked core whose command's instruction is refused: the step is refused so, and the record is the state with
the mark set and the host's side moved on (spec R93). -/
theorem refused_command {s : State} {w : CmdWord} {rest : List HostEvent} {r : Refusal} (hm : s.refusedMark = none)
    (hi : s.input = .command w :: rest)
    (h : exec (decode w) { s with input := rest, position := s.position + 1 } = .refused r) :
    step s = .refused r ∧ s.record = { s with
      input := rest
      position := s.position + 1
      refusedMark := some { reason := r, position := s.position, unit := .command w } } := by
  have hs : step s = .refused r := (step_of_command hm hi).trans h
  exact ⟨hs, record_of_refused_alone_of_unmarked hm hi rfl hs⟩

/-- Settles O7, by the event of a lone byte. -/
theorem partialWordRefusedTruncated : Obligations.PartialWordRefusedTruncated := by
  refine fun b s rest => ⟨rfl, fun hm hi => ?_⟩
  have hs : step s = .refused .truncated :=
    (step_of_input hi).trans (handle_lone_of_unmarked (s := s.accept _ rest) hm b s.draws)
  exact ⟨hs, record_of_refused_alone_of_unmarked hm hi rfl hs⟩

/-- Settles O15: a reserved OP is none of the three OPs of the instructions. -/
theorem reservedOpcodesRefused : Obligations.ReservedOpcodesRefused := by
  refine ⟨fun w s rest hop hm hi => refused_command hm hi ?_, fun s => ?_⟩
  · have hne : opField w ≠ 0x01#8 ∧ opField w ≠ 0x02#8 ∧ opField w ≠ 0x03#8 := by
      rw [opField]
      bv_omega
    obtain ⟨h1, h2, h3⟩ := hne
    exact (decode_reserved_opcode h1 h2 h3).2 _
  · exact ⟨fun _ => rfl, fun _ => rfl, fun _ => rfl, fun _ => rfl, fun _ => rfl, fun _ => rfl, fun _ => rfl⟩

/-- Settles O16: OP 0x01 with other DATA decodes to its reserved row. -/
theorem initWithDataRefused : Obligations.InitWithDataRefused := by
  refine ⟨fun w s rest hop hd hm hi => refused_command hm hi ?_, fun _ _ => rfl⟩
  rw [decode, opField, dataField, if_pos hop, if_neg hd]
  rfl

/-! ### The phase table -/

/-- A performed instruction leads to KEYING or STREAMING. -/
theorem exec_phase {i : Instr} {s t : State} (h : exec i s = .next t) :
    t.phase = Phase.keying.code ∨ t.phase = Phase.streaming.code := by
  obtain ⟨-, rfl⟩ | ⟨_, _, -, hp, -, rfl⟩ | ⟨_, _, -, -, -, rfl⟩ := exec_next_cases h
  · exact .inl rfl
  · exact .inl hp
  · exact .inr rfl

/-- Settles O17: the table's entries by `exec_next_of_phaseTable` and `exec_eq_refused_iff`, the way back to IDLE by
`exec_phase`. -/
theorem phaseChangesOnlyAsTabled : Obligations.PhaseChangesOnlyAsTabled := by
  refine ⟨fun s p w rest hs hp hm hi => ⟨fun q hq => ?_, fun r hr => ?_⟩, fun s rest hi => ?_,
    fun s t w rest _ hi ht hidle => ?_⟩
  · rw [step_of_command hm hi]
    exact exec_next_of_phaseTable (s := { s with input := rest, position := s.position + 1 }) hs hp hq
  · refine refused_command hm hi ?_
    exact (exec_eq_refused_iff (s := { s with input := rest, position := s.position + 1 }) hp _ _).2 hr
  · exact ⟨_, step_of_reset hi, rfl⟩
  · rw [step_of_input hi] at ht
    obtain ⟨-, hx⟩ := (perform_eq_next_iff _ _ _).1 ht
    obtain h | h := exec_phase hx <;> exact absurd (h.symm.trans hidle) (by decide)

/-! ### Marks are kept -/

/-- An event that goes on keeps the refused mark. -/
theorem step_refusedMark {s t : State} (h : step s = .next t) : t.refusedMark = s.refusedMark := by
  obtain ⟨-, rfl⟩ | ⟨e, rest, -, h⟩ := step_next_cases h
  · rfl
  · rw [handle_frame h]
    rfl

/-- An event that goes on keeps the fault mark, unless it is a read of an output in a core without one. -/
theorem step_faultMark {s t : State} (h : step s = .next t) :
    t.faultMark = s.faultMark ∨ s.faultMark = none ∧ ∃ o rest, s.input = .read o :: rest := by
  obtain ⟨-, rfl⟩ | ⟨e, rest, hi, h⟩ := step_next_cases h
  · exact .inl rfl
  obtain h | ⟨o, rfl, h⟩ := handle_faultMark h
  · exact .inl h
  cases hf : s.faultMark with
  | none => exact .inr ⟨rfl, o, rest, hi⟩
  | some f => exact .inl (by simp [h, hf])

/-- The record of an event never clears or changes a set refused mark (spec R33, R93). -/
theorem record_refusedMark {s : State} {m : RefusedMark} (hm : s.refusedMark = some m) :
    s.record.refusedMark = some m := by
  obtain h | ⟨e, rest, f, -, -, h⟩ | ⟨e, rest, r, -, -, h⟩ := record_cases s
  · rw [step_refusedMark h, hm]
  · rw [h, settle_frame]
    exact hm
  · rw [h, settle_frame]
    simp [hm]

/-- The record of an event never clears or changes a set fault mark (spec R33). -/
theorem record_faultMark {s : State} {f : Fault} (hf : s.faultMark = some f) : s.record.faultMark = some f := by
  obtain h | ⟨e, rest, g, -, -, h⟩ | ⟨e, rest, r, -, -, h⟩ := record_cases s
  · obtain h | ⟨hnone, -⟩ := step_faultMark h
    · rw [h, hf]
    · exact absurd (hnone.symm.trans hf) nofun
  · rw [h, settle_frame]
    simp [hf]
  · rw [h, settle_frame]
    exact hf

/-- Settles O22, for the record by its three cases, for a step by the events that go on. -/
theorem marksAreSticky : Obligations.MarksAreSticky :=
  fun _ => ⟨fun _ => record_refusedMark, fun _ => record_faultMark, fun _ h => ⟨step_refusedMark h, step_faultMark h⟩⟩

/-! ### What a refused command leaves -/

/-- Settles O19: what a refusal without a reset leaves, and the mark kept by every record. -/
theorem refusedCommandHasNoStep : Obligations.RefusedCommandHasNoStep := by
  refine ⟨fun s e rest r hi hr h => ?_, fun s m hm => record_refusedMark hm⟩
  rw [record_of_refused_of_no_reset hi hr h]
  cases s.refusedMark <;> rfl

/-- Settles O20: if the free value lets the command be considered, it is refused and the reset applies beside the mark;
else it is lost, and the step is the reset. -/
theorem refusedCommandUnderResetStillResets : Obligations.RefusedCommandUnderResetStillResets := by
  intro s w as rest r hi hr hm hx
  cases hc : Config.overlapCompletes s.source s.draws with
  | true =>
    have hs : step s = .refused r := by
      rw [step_of_completed hi hr hc, perform_of_unmarked (s := s.accept _ rest) hm, hx, mapNext_refused]
    rw [record_of_refused_of_reset hi hr hs, hm]
    rfl
  | false =>
    rw [record_of_next (step_of_lost hi hr hc), if_neg nofun, ← hm]
    rfl

/-! ### A marked run -/

theorem perform_of_marked {s : State} {m : RefusedMark} (hm : s.refusedMark = some m) (w : CmdWord) :
    perform w s = .refused m.reason := by
  simp [perform, hm]

theorem refusePartial_of_marked {s : State} {m : RefusedMark} (hm : s.refusedMark = some m) :
    refusePartial s = .refused m.reason := by
  simp [refusePartial, hm]

/-- A marked core refuses a command that an overlapping reset does not lose, and the reset applies (spec R93, R106). -/
theorem marked_completed {s : State} {m : RefusedMark} {w : CmdWord} {as : List Access} {rest : List HostEvent}
    (hm : s.refusedMark = some m) (hi : s.input = .during w as :: rest) (hr : .reset ∈ as)
    (hc : Config.overlapCompletes s.source s.draws = true) : step s = .refused m.reason := by
  rw [step_of_completed hi hr hc, perform_of_marked (s := s.accept _ rest) hm, mapNext_refused]

/-- Settles O21, event by event. -/
theorem markedRunPerformsNoCommand : Obligations.MarkedRunPerformsNoCommand := by
  intro s m rest hm
  refine ⟨?_, fun hi => ?_, fun p hi hp => ?_, fun i v hi hk => ?_, fun i hi hk => ?_, fun w as hi hr => ?_,
    fun w as hi hr => ⟨marked_completed hm hi hr, fun hc => ?_, ?_⟩⟩
  · rintro e hi (⟨w, rfl⟩ | ⟨b, rfl⟩)
    · have hs : step s = .refused m.reason := (step_of_input hi).trans (perform_of_marked (s := s.accept _ rest) hm w)
      exact ⟨hs, record_of_refused_alone_of_marked hm hi rfl hs⟩
    · have hs : step s = .refused m.reason :=
        (step_of_input hi).trans (refusePartial_of_marked (s := s.accept _ rest) hm)
      exact ⟨hs, record_of_refused_alone_of_marked hm hi rfl hs⟩
  · exact ⟨_, step_of_reset hi, rfl, hm⟩
  · refine ⟨_, step_of_read hi, ?_⟩
    simp [State.shown, hp]
  · refine ⟨_, step_of_read hi, ?_⟩
    simp [shown_of_set hk]
  · refine ⟨_, step_of_read hi, ?_⟩
    simp [shown_of_unset hk, readFault_of_unset hk]
  · have hs : step s = .refused m.reason := by
      rw [step_of_reads_over hi hr, perform_of_marked (s := s.accept _ rest) hm, mapNext_refused]
    exact ⟨hs, record_of_refused_of_marked hm hi hr hs⟩
  · rw [record_of_next (step_of_lost hi hr hc), step_of_lost hi hr hc]
  · cases hc : Config.overlapCompletes s.source s.draws with
    | true =>
      rw [record_of_refused_of_reset hi hr (marked_completed hm hi hr hc), hm, Option.some_or, ← hm]
      rfl
    | false =>
      rw [record_of_next (step_of_lost hi hr hc)]
      rfl

end Sys2Proof.Proofs

/-! PROOFS. What a step runs, the reads of the outputs, and what overlaps a command (spec 10_state.md,
70_reset_and_hazards.md sections 1 and 3). -/

namespace Sys2Proof.Proofs

open Sys2Proof.Machine

/-! ### A step runs what is presented -/

/-- Settles O8: an accepted command is performed, and with no mark that is `exec`. -/
theorem stepRunsDecodedCommand : Obligations.StepRunsDecodedCommand := fun _ _ _ hm hi => step_of_command hm hi

/-- Settles O9: the placed word is within its width, so the masking of `withFetchWord` leaves it as the decoder reads
it. -/
theorem placedWordRunsNext : Obligations.PlacedWordRunsNext := by
  intro s nbits w i hm h
  obtain ⟨-, hw, rfl⟩ := decodeTableWord_eq_some h
  rw [State.withFetchWord, Nat.mod_eq_of_lt hw]
  exact step_of_command (s := s.present (BitVec.ofNat 16 w)) hm rfl

/-- Settles O10, by induction on the number of steps. -/
theorem idleCoreHoldsState : Obligations.IdleCoreHoldsState := by
  intro s n hi
  induction n with
  | zero => rfl
  | succ n ih => rw [run_succ_of_next (step_of_no_input hi), ih]

/-! ### Where the phase-checked access faults -/

theorem guarded_of_bad_phase {s : State} (hp : s.phase = 0b11#2) (check : Phase → Option Refusal)
    (act : KeyState → State → State) : guarded check act s = .fault .badPhase := by
  rw [guarded, (Phase.ofCode_eq_none_iff _).2 hp]

theorem readKeys_eq_none {s : State} {i : KeyIndex} (h : s.key i = none) : s.readKeys = none := by
  rw [Option.eq_none_iff_forall_ne_some]
  intro k hk
  obtain ⟨h0, h1, h2⟩ := (State.readKeys_eq_some_iff s k).1 hk
  cases i <;> simp_all [State.key]

theorem guarded_of_unset_key {s : State} {p : Phase} {check : Phase → Option Refusal} {i : KeyIndex}
    (hp : s.phase = p.code) (hc : check p = none) (hk : s.key i = none) (act : KeyState → State → State) :
    guarded check act s = .fault .unsetKeyRead := by
  simp [guarded, hp, hc, readKeys_eq_none hk]

/-- Settles O14, by the two faults of the phase-checked access. -/
theorem commandsFaultOnBadReads : Obligations.CommandsFaultOnBadReads := by
  refine fun s b => ⟨fun hp => ?_, fun i hk => ⟨fun hp => ?_, ?_⟩⟩
  · rw [exec_absorb, exec_decrypt]
    exact ⟨guarded_of_bad_phase hp _ _, guarded_of_bad_phase hp _ _⟩
  · rw [exec_absorb]
    exact guarded_of_unset_key (p := .keying) hp rfl hk _
  · rw [exec_decrypt]
    rintro (hp | hp)
    · exact guarded_of_unset_key (p := .keying) hp rfl hk _
    · exact guarded_of_unset_key (p := .streaming) hp rfl hk _

/-! ### Reads of the outputs between commands -/

/-- A read that shows a value and meets no fault only lists the reading. -/
theorem step_of_read_shown {s : State} {o : OutputPort} {rest : List HostEvent} {v : Reading}
    (hi : s.input = .read o :: rest) (hv : s.shown o = some v) (hf : s.readFault o = none) :
    step s = .next { s with input := rest, reads := s.reads ++ [v] } := by
  rw [step_of_read hi, State.readOutput, hv, hf, State.markFault, Option.or_none]
  rfl

/-- Settles O32: a set key and a named phase are shown, an unset key records its fault. -/
theorem outputsShowRegisters : Obligations.OutputsShowRegisters := by
  refine fun s rest => ⟨fun i v hi hk => ?_, fun p hi hp => ?_, fun i hi hk => ?_⟩
  · exact step_of_read_shown hi (shown_of_set hk) (readFault_of_set hk)
  · exact step_of_read_shown hi (by rw [State.shown, hp]) (readFault_of_phase hp)
  · rw [step_of_read hi, State.readOutput, shown_of_unset hk, readFault_of_unset hk]
    cases hf : s.faultMark <;> simp [State.markFault, State.noteReads, hf]

/-- Settles O33: the codes are the definition's, and a phase read of 0b11 shows the code and records the fault. -/
theorem phaseCodesAndBadPhase : Obligations.PhaseCodesAndBadPhase := by
  refine ⟨rfl, rfl, rfl, fun s rest hi hp => ?_⟩
  have hfault : s.readFault .phase = some .badPhase :=
    (State.readFault_eq_some_iff _ _ _).2 (.inr ⟨rfl, hp, rfl⟩)
  rw [step_of_read hi, State.readOutput, State.shown, hfault]
  cases hf : s.faultMark <;> simp [State.markFault, State.noteReads, hf, hp]

/-- Settles O23, by the definition of the codes. -/
theorem outcomeReasonsAreNumbered : Obligations.OutcomeReasonsAreNumbered :=
  ⟨rfl, rfl, rfl, rfl, rfl, rfl, rfl, rfl⟩

/-! ### Accesses over a command -/

/-- Settles O34: the command is completed or lost, and what it wrote to the keys and the phase the reset undoes. -/
theorem overlappingResetHasTwoOutcomes : Obligations.OverlappingResetHasTwoOutcomes := by
  intro s t w as rest hi hr hm hx
  refine ⟨?_, ?_, rfl, rfl, rfl, rfl⟩
  · split
    · rename_i hc
      rw [step_of_completed hi hr hc, perform_of_unmarked (s := s.accept _ rest) hm, hx, mapNext_next]
    · rename_i hc
      exact step_of_lost hi hr (by simpa using hc)
  · rw [exec_frame hx]
    rfl

/-- Settles O35: the draws by their recursion, and the command's own outcome with the draws listed. -/
theorem overlappingReadsAreDrawn : Obligations.OverlappingReadsAreDrawn := by
  refine ⟨fun _ _ => rfl, fun _ _ _ _ => rfl, fun _ _ _ => rfl, fun _ _ _ => rfl, fun s w as rest hi hr hm => ?_⟩
  rw [step_of_reads_over hi hr, perform_of_unmarked (s := s.accept _ rest) hm]
  refine ⟨drawnReadings_length hr _ _, fun t hx => ?_, fun r hx => ?_, fun f hx => ?_⟩
  · rw [hx, mapNext_next, exec_frame hx]
    rfl
  · rw [hx, mapNext_refused]
  · rw [hx, mapNext_fault]

end Sys2Proof.Proofs

/-! PROOFS. CRCSTEP and UPDATE are permutations, and the complements of CRC32 cancel (spec 40_key_update.md sections 1
and 2). -/

namespace Sys2Proof.Proofs

open Sys2Proof.Machine

/-! ### The CRC step -/

/-- A generator round moves the bit shifted out into the top bit, since the polynomial's top bit is set. -/
theorem crcRound_top_bit (c : Key) : (crcRound c).getLsbD 31 = c.getLsbD 0 := by
  have hshift : (c >>> 1).getLsbD 31 = false := by
    rw [BitVec.getLsbD_ushiftRight, BitVec.getLsbD_of_ge _ _ (by decide)]
  have hpoly : crcPoly.getLsbD 31 = true := by decide
  unfold crcRound
  split
  · rename_i h
    rw [BitVec.getLsbD_xor, hshift, hpoly, h, Bool.false_xor]
  · rename_i h
    rw [hshift, Bool.eq_false_iff.2 h]

/-- A value is what is left after a shift by one, and the bit shifted out. -/
theorem eq_of_ushiftRight_one_eq {c d : Key} (h0 : c.getLsbD 0 = d.getLsbD 0) (hs : c >>> 1 = d >>> 1) : c = d := by
  apply BitVec.eq_of_getLsbD_eq
  rintro (_ | i) -
  · exact h0
  · simpa [Nat.add_comm] using congrArg (BitVec.getLsbD · i) hs

/-- The bit shifted out is kept in the top bit, so a round loses nothing. -/
theorem crcRound_injective : Function.Injective crcRound := by
  intro c d h
  have h0 : c.getLsbD 0 = d.getLsbD 0 := by rw [← crcRound_top_bit, h, crcRound_top_bit]
  refine eq_of_ushiftRight_one_eq h0 ?_
  unfold crcRound at h
  rw [h0] at h
  split at h
  · exact (BitVec.xor_left_inj _).1 h
  · exact h

/-- CRCSTEP is the circuit: eight rounds of the generator on `acc ^ zext_32(b)` (spec R61). -/
theorem crcStep_eq_rounds (acc : Key) (b : Byte) : crcStep acc b = crcRound^[8] (acc ^^^ byteOperand b) := by
  rw [← crcRounds_eq_iterate, ← crcStepBy_eq .bitwise]
  rfl

theorem crcStep_injective (b : Byte) : Function.Injective (crcStep · b) := by
  intro acc acc' h
  simp only [crcStep_eq_rounds] at h
  exact (BitVec.xor_left_inj _).1 (crcRound_injective.iterate 8 h)

/-- Settles O39: an injection of a finite type into itself. -/
theorem crcStepIsBijective : Obligations.CrcStepIsBijective :=
  fun b => Finite.injective_iff_bijective.1 (crcStep_injective b)

/-! ### UPDATE -/

/-- The inverse of LCG_MUL modulo 2^32 (spec R67). -/
def lcgMulInverse : Key := 0xD94FA8CD#32

theorem lcgMul_mul_inverse : lcgMul * lcgMulInverse = 1#32 := by decide

/-- Multiplication by the odd LCG_MUL loses nothing. -/
theorem mul_lcgMul_injective : Function.Injective (· * lcgMul) := by
  intro x y h
  have h' := congrArg (· * lcgMulInverse) h
  simpa [BitVec.mul_assoc, lcgMul_mul_inverse] using h'

theorem KeyState.ext_keys {k l : KeyState} (h0 : k.k0 = l.k0) (h1 : k.k1 = l.k1) (h2 : k.k2 = l.k2) : k = l := by
  cases k
  cases l
  simp_all

/-- Each step of UPDATE is undone in turn, the new key_0 giving the summand of step 2, the new key_1 the byte of step
4. -/
theorem update_injective (b : Byte) : Function.Injective (update · b) := by
  intro k l h
  have h0 : (update k b).k0 = (update l b).k0 := congrArg KeyState.k0 h
  have h1 : (update k b).k1 = (update l b).k1 := congrArg KeyState.k1 h
  have h2 : (update k b).k2 = (update l b).k2 := congrArg KeyState.k2 h
  rw [update_k2, update_k2, h1] at h2
  rw [update_k1, update_k1, h0, BitVec.add_left_inj] at h1
  rw [update_k0, update_k0] at h0
  exact KeyState.ext_keys (crcStep_injective b h0) ((BitVec.add_left_inj _).1 (mul_lcgMul_injective h1))
    (crcStep_injective _ h2)

theorem finite_keyState : Finite KeyState :=
  Finite.of_injective (fun k => (k.k0, k.k1, k.k2)) fun k l h => by
    simp only [Prod.mk.injEq] at h
    exact KeyState.ext_keys h.1 h.2.1 h.2.2

/-- Settles O41: an injection of the finite type of key states into itself. -/
theorem updateIsBijective : Obligations.UpdateIsBijective :=
  fun b => (@Finite.injective_iff_bijective _ finite_keyState _).1 (update_injective b)

/-- Settles O38: complementing what the standard routine complements leaves the bare CRC step. -/
theorem complementsCancel : Obligations.ComplementsCancel := by
  intro k b
  have hcrc (acc : Key) (c : Byte) : ~~~ (crc32 (~~~ acc) c) = crcStep acc c := by simp [crc32]
  have hhigh : ((update k b).k1 >>> 24).setWidth 8 = highByte (update k b).k1 := by
    rw [← BitVec.toNat_inj, highByte_toNat]
    have := (update k b).k1.isLt
    simp only [BitVec.toNat_setWidth, BitVec.toNat_ushiftRight, Nat.shiftRight_eq_div_pow]
    omega
  rw [hcrc, hcrc, hhigh]
  exact ⟨update_k0 k b, update_k2 k b⟩

end Sys2Proof.Proofs

/-! PROOFS. What of key_2 the keystream byte reads, and that no intermediate width shows (spec 41_decrypt.md section
1). -/

namespace Sys2Proof.Proofs

open Sys2Proof.Machine

/-- A value and its pair, which differs in bit 0 only, are an even number and the odd one after it, in some order. -/
theorem mul_xor_one (t : Nat) : t * (t ^^^ 1) = 2 * (t / 2) * (2 * (t / 2) + 1) := by
  obtain he | ho := t.even_or_odd
  · rw [Nat.xor_one_of_even he, Nat.two_mul_div_two_of_even he]
  · rw [Nat.xor_one_of_odd ho, Nat.two_mul_div_two_add_one_of_odd ho, ← Nat.two_mul_odd_div_two (Nat.odd_iff.1 ho),
      Nat.mul_comm]

/-- Setting bit 0 gives the odd number of the pair. -/
theorem or_one_eq (m : Nat) : m ||| 1 = 2 * (m / 2) + 1 := by
  have hd : (m ||| 1) / 2 = m / 2 := by
    rw [Nat.or_div_two]
    exact Nat.or_zero _
  have hm : (m ||| 1) % 2 = 1 := Nat.or_mod_two_eq_one.2 (.inr rfl)
  omega

/-- Setting bit 1 leaves the bits above it. -/
theorem or_two_div_two (n : Nat) : (n ||| 2) / 2 = 2 * (n / 4) + 1 := by
  rw [Nat.or_div_two, Nat.div_self (by decide), or_one_eq, Nat.div_div_eq_div_mul]

/-- Half the 16-bit intermediate is bits [15:2] of key_2 with a 1 below them. -/
theorem ksTemp_div_two (k2 : Key) : (ksTemp k2).toNat / 2 = 2 * (k2.extractLsb' 2 14).toNat + 1 := by
  have h := or_two_div_two k2.toNat
  rw [ksTemp_toNat, BitVec.toNat_or, BitVec.extractLsb'_toNat, Nat.shiftRight_eq_div_pow]
  simp only [BitVec.toNat_ofNat, Nat.reducePow, Nat.reduceMod]
  omega

/-- Settles O43: the product is determined by half the intermediate, which is bits [15:2] with a 1 below them. -/
theorem keystreamReadsBits15To2 : Obligations.KeystreamReadsBits15To2 := by
  intro a b h
  rw [← BitVec.toNat_inj, keystream_toNat, keystream_toNat, mul_xor_one, mul_xor_one, ksTemp_div_two, ksTemp_div_two, h]

/-! ### Widths -/

/-- Bits [15:8] are those of the value modulo 2^16. -/
theorem bits15To8_eq (x : Nat) : x / 2 ^ 8 % 2 ^ 8 = x % 2 ^ 16 / 2 ^ 8 := by
  omega

/-- Bits [15:8] of a product with the pair depend on the low 16 bits of the factor only. -/
theorem bits15To8_mul_xor_one (x : Nat) :
    x * (x ^^^ 1) / 2 ^ 8 % 2 ^ 8 = x % 2 ^ 16 * (x % 2 ^ 16 ^^^ 1) / 2 ^ 8 % 2 ^ 8 := by
  have hlow : x * (x ^^^ 1) % 2 ^ 16 = x % 2 ^ 16 * (x % 2 ^ 16 ^^^ 1) % 2 ^ 16 := by
    rw [Nat.mul_mod, Nat.xor_mod_two_pow]
  rw [bits15To8_eq, bits15To8_eq, hlow]

/-- Settles O44: any width of 16 bits or more keeps the low 16 bits, and the byte reads no others. -/
theorem keystreamWidthUnobservable : Obligations.KeystreamWidthUnobservable := by
  intro k2 W W' hW hW'
  have hdvd {V : Nat} (hV : 16 ≤ V) : 2 ^ 16 ∣ 2 ^ V := Nat.pow_dvd_pow 2 hV
  have hexact : (keystream k2).toNat =
      (((k2.toNat ||| 2) % 2 ^ W) * (((k2.toNat ||| 2) % 2 ^ W) ^^^ 1)) / 2 ^ 8 % 2 ^ 8 := by
    rw [bits15To8_mul_xor_one, Nat.mod_mod_of_dvd _ (hdvd hW), keystream_toNat, ksTemp_toNat, BitVec.toNat_or]
    rfl
  refine ⟨?_, hexact⟩
  rw [hexact, bits15To8_eq, bits15To8_eq, Nat.mod_mod_of_dvd _ (hdvd hW')]

end Sys2Proof.Proofs

/-! PROOFS. The host's macros on the machine, and the test-bench encryptor's round trip (spec 30_encoding.md section 4,
40_key_update.md section 3, 41_decrypt.md section 3). -/

namespace Sys2Proof.Proofs

open Sys2Proof.Machine

/-! ### Runs of several steps -/

/-- A run of `m + n` steps that goes through its first `m` is the run of `n` steps from there. -/
theorem run_add_of_next {m n : Nat} {s t : State} (h : run m s = .next t) : run (m + n) s = run n t := by
  induction m generalizing s with
  | zero =>
    cases h
    rw [Nat.zero_add]
  | succ m ih =>
    rw [Nat.add_right_comm]
    cases hs : step s with
    | next u =>
      rw [run_succ_of_next hs] at h ⊢
      exact ih h
    | fault f => simp [run, hs] at h
    | refused r => simp [run, hs] at h

/-- The state of a run that has performed the first `n` commands of its input. -/
def advanced (s : State) (n : Nat) (rest : List HostEvent) : State :=
  { s with input := rest, position := s.position + n }

/-- A well-formed instruction whose word is presented to an unmarked core is run by the next step. -/
theorem step_of_presented {s : State} {i : Instr} {is : List Instr} {rest : List HostEvent}
    (hw : i.wf = true) (hm : s.refusedMark = none) (hi : s.input = presented (i :: is) ++ rest) :
    step s = exec i (advanced s 1 (presented is ++ rest)) := by
  rw [step_of_command hm hi, decode_encode hw]
  rfl

/-! ### A chunk of ciphertext -/

theorem decBytes_cons (k : KeyState) (c : Byte) (cs : List Byte) :
    decBytes k (c :: cs) =
      ((decBytes (update k (plaintext k c)) cs).1, plaintext k c :: (decBytes (update k (plaintext k c)) cs).2) := rfl

theorem decBytes_length (k : KeyState) (cs : List Byte) : (decBytes k cs).2.length = cs.length := by
  induction cs generalizing k with
  | nil => rfl
  | cons c cs ih => simp [decBytes_cons, ih]

/-- What a chunk leaves: DEC's keys and bytes, and STREAMING if there was a byte (spec R82). -/
def decrypted (s : State) (k : KeyState) (cs : List Byte) : State :=
  { s.writeKeys (decBytes k cs).1 with
    phase := if cs = [] then s.phase else Phase.streaming.code
    response := s.response ++ (decBytes k cs).2 }

theorem decrypted_holds (s : State) (k : KeyState) (cs : List Byte) :
    (decrypted s k cs).HoldsKeys (decBytes k cs).1 := ⟨rfl, rfl, rfl⟩

theorem run_decryptChunk {cs : List Byte} {s : State} {k : KeyState} {rest : List HostEvent} (hm : s.refusedMark = none)
    (hk : s.HoldsKeys k) (hp : s.phase = Phase.keying.code ∨ s.phase = Phase.streaming.code)
    (hi : s.input = presented (decryptChunk cs) ++ rest) :
    run cs.length s = .next (advanced (decrypted s k cs) cs.length rest) := by
  induction cs generalizing s k with
  | nil =>
    obtain ⟨h0, h1, h2⟩ := hk
    cases s
    simp_all [run, decrypted, advanced, decBytes, presented, decryptChunk]
  | cons c cs ih =>
    have hs := (step_of_presented (i := .decrypt c) rfl hm hi).trans (exec_decrypt_of_holds c hp hk)
    refine (run_succ_of_next hs).trans ((ih (k := update k (plaintext k c)) (by exact hm) ⟨rfl, rfl, rfl⟩ (.inr rfl)
      rfl).trans ?_)
    simp [decrypted, advanced, decBytes_cons, Nat.add_assoc, Nat.add_comm 1]

/-- Settles O47: DEC's equations, and the run by `run_decryptChunk`. -/
theorem chunkDecryptsAsDec : Obligations.ChunkDecryptsAsDec :=
  ⟨fun _ => rfl, decBytes_cons, fun cs _ k _ hm hk hp hi => ⟨decBytes_length k cs, run_decryptChunk hm hk hp hi⟩⟩

/-! ### The password -/

/-- The absorbs of a password fold UPDATE over it, in KEYING. -/
theorem run_absorbs {p : List Byte} {s : State} {k : KeyState} {rest : List HostEvent} (hm : s.refusedMark = none)
    (hk : s.HoldsKeys k) (hp : s.phase = Phase.keying.code) (hi : s.input = presented (p.map .absorb) ++ rest) :
    run p.length s = .next (advanced (s.writeKeys (p.foldl update k)) p.length rest) := by
  induction p generalizing s k with
  | nil =>
    obtain ⟨h0, h1, h2⟩ := hk
    cases s
    simp_all [run, State.writeKeys, advanced, presented]
  | cons b p ih =>
    have hx := (guarded_eq_next_iff absorbCheck (fun k s => s.writeKeys (update k b))
      (advanced s 1 (presented (p.map .absorb) ++ rest)) _).2 ⟨.keying, k, hp, rfl, hk, rfl⟩
    have hs := (step_of_presented (i := .absorb b) rfl hm hi).trans ((exec_absorb b _).trans hx)
    refine (run_succ_of_next hs).trans ((ih (k := update k b) (by exact hm) ⟨rfl, rfl, rfl⟩ (by exact hp) rfl).trans ?_)
    simp [State.writeKeys, advanced, Nat.add_assoc, Nat.add_comm 1]

/-- `open p` leaves K(p), in KEYING (spec R60, R70). -/
theorem run_openMacro {p : List Byte} {s : State} {rest : List HostEvent} (hm : s.refusedMark = none)
    (hi : s.input = presented (openMacro p) ++ rest) :
    run (p.length + 1) s = .next (advanced ((s.writeKeys (passwordKeys p)).setPhase .keying) (p.length + 1) rest) := by
  have hs := (step_of_presented (i := .init) rfl hm hi).trans (exec_init _)
  refine (run_succ_of_next hs).trans ((run_absorbs (k := seed) (by exact hm) ⟨rfl, rfl, rfl⟩ rfl rfl).trans ?_)
  simp [State.writeKeys, State.setPhase, advanced, passwordKeys, Nat.add_assoc, Nat.add_comm 1]

/-- Settles O48: K is a left fold, and the run of `open p` is `run_openMacro`. -/
theorem openFoldsPassword : Obligations.OpenFoldsPassword :=
  ⟨rfl, fun _ _ => List.foldl_append, fun _ _ _ hm hi => run_openMacro hm hi⟩

/-! ### Chunk boundaries -/

theorem decBytes_append (k : KeyState) (xs ys : List Byte) :
    decBytes k (xs ++ ys) =
      ((decBytes (decBytes k xs).1 ys).1, (decBytes k xs).2 ++ (decBytes (decBytes k xs).1 ys).2) := by
  induction xs generalizing k with
  | nil => rfl
  | cons x xs ih => simp [decBytes_cons, ih]

/-- DEC over one chunk more, on top of the plaintext so far. -/
def decChunk (acc : KeyState × List Byte) (c : List Byte) : KeyState × List Byte :=
  ((decBytes acc.1 c).1, acc.2 ++ (decBytes acc.1 c).2)

/-- Chunks decrypted in order, on top of the plaintext so far. -/
theorem foldl_decChunk (k : KeyState) (out : List Byte) (chunks : List (List Byte)) :
    chunks.foldl decChunk (k, out) = ((decBytes k chunks.flatten).1, out ++ (decBytes k chunks.flatten).2) := by
  induction chunks generalizing k out with
  | nil => simp [decBytes]
  | cons c chunks ih => simp [decChunk, ih, decBytes_append]

/-- Settles O49, by induction on the chunks with the plaintext so far. -/
theorem splittingUnobservable : Obligations.SplittingUnobservable :=
  fun k chunks => (foldl_decChunk k [] chunks).symm

/-! ### The round trip -/

theorem encBytes_cons (k : KeyState) (p : Byte) (ps : List Byte) :
    encBytes k (p :: ps) = ((encBytes (update k p) ps).1, (p ^^^ keystream k.k2) :: (encBytes (update k p) ps).2) := rfl

/-- The keystream byte cancels. -/
theorem plaintext_xor_keystream (k : KeyState) (p : Byte) : plaintext k (p ^^^ keystream k.k2) = p := by
  rw [plaintext, BitVec.xor_assoc, BitVec.xor_self, BitVec.xor_zero]

/-- DEC undoes the encryptor and leaves its keys: both feed the plaintext back (spec R88). -/
theorem decBytes_encBytes (k : KeyState) (m : List Byte) :
    decBytes k (encBytes k m).2 = ((encBytes k m).1, m) := by
  induction m generalizing k with
  | nil => rfl
  | cons p ps ih => simp [encBytes_cons, decBytes_cons, plaintext_xor_keystream, ih]

theorem encBytes_length (k : KeyState) (m : List Byte) : (encBytes k m).2.length = m.length := by
  rw [← decBytes_length k, decBytes_encBytes]

theorem presented_append (is js : List Instr) : presented (is ++ js) = presented is ++ presented js :=
  List.map_append

/-- Settles O50: `open p`, then the ciphertext as one chunk, which DEC decrypts to the message. -/
theorem encryptedMessageRoundTrips : Obligations.EncryptedMessageRoundTrips := by
  intro p m s rest hm hi
  rw [presented_append, List.append_assoc] at hi
  have hdec := run_decryptChunk
    (s := advanced ((s.writeKeys (passwordKeys p)).setPhase .keying) (p.length + 1)
      (presented (decryptChunk (encBytes (passwordKeys p) m).2) ++ rest))
    hm (State.writeKeys_holds s _) (.inl rfl) rfl
  rw [encBytes_length] at hdec
  refine ⟨_, (run_add_of_next (run_openMacro hm hi)).trans hdec, ?_, ?_, rfl⟩
  · simp [decrypted, advanced, decBytes_encBytes]
  · have hk := decrypted_holds s (passwordKeys p) (encBytes (passwordKeys p) m).2
    rwa [decBytes_encBytes] at hk

/-- Settles O46, by computing the keys and the bytes. -/
theorem knownAnswers : Obligations.KnownAnswers := by
  unfold Obligations.KnownAnswers
  decide +kernel

end Sys2Proof.Proofs

/-! PROOFS. Maps of states that no step can observe: a step commutes with them. CRC_IMPL is changed by one such map
(spec 00_scope.md section 5), and another puts a core's past before a run that starts with INIT (spec 40_key_update.md
section 3). -/

namespace Sys2Proof.Proofs

open Sys2Proof.Machine

/-- A map of states that keeps all a step reads and commutes with all a step writes. -/
structure Unobserved (f : State → State) : Prop where
  key : ∀ s i, (f s).key i = s.key i
  phase : ∀ s, (f s).phase = s.phase
  refusedMark : ∀ s, (f s).refusedMark = s.refusedMark
  input : ∀ s, (f s).input = s.input
  draws : ∀ s, (f s).draws = s.draws
  source : ∀ s, (f s).source = s.source
  writeKeys : ∀ s k, (f s).writeKeys k = f (s.writeKeys k)
  setPhase : ∀ s p, (f s).setPhase p = f (s.setPhase p)
  emit : ∀ s b, (f s).emit b = f (s.emit b)
  applyReset : ∀ s, (f s).applyReset = f s.applyReset
  noteReads : ∀ s rs, (f s).noteReads rs = f (s.noteReads rs)
  markFault : ∀ s r, (f s).markFault r = f (s.markFault r)
  accept : ∀ s e rest, (f s).accept e rest = f (s.accept e rest)

section

variable {f : State → State}

theorem mapNext_mapNext (g h : State → State) (o : Host.Outcome State Fault Refusal) :
    mapNext g (mapNext h o) = mapNext (fun s => g (h s)) o := by
  cases o <;> rfl

theorem Unobserved.readKeys_eq (hf : Unobserved f) (s : State) : (f s).readKeys = s.readKeys := by
  have h0 : (f s).key0 = s.key0 := hf.key s .key0
  have h1 : (f s).key1 = s.key1 := hf.key s .key1
  have h2 : (f s).key2 = s.key2 := hf.key s .key2
  simp only [State.readKeys, h0, h1, h2]

theorem Unobserved.guarded_comm (hf : Unobserved f) (check : Phase → Option Refusal) {act : KeyState → State → State}
    (hact : ∀ k s, act k (f s) = f (act k s)) (s : State) :
    guarded check act (f s) = mapNext f (guarded check act s) := by
  simp only [guarded, hf.phase, hf.readKeys_eq, hact]
  cases Phase.ofCode s.phase with
  | none => rfl
  | some p =>
    dsimp only
    cases check p with
    | some r => rfl
    | none => cases s.readKeys <;> rfl

theorem Unobserved.exec_comm (hf : Unobserved f) (i : Instr) (s : State) : exec i (f s) = mapNext f (exec i s) := by
  cases i with
  | init => rw [exec_init, exec_init, hf.writeKeys, hf.setPhase, mapNext_next]
  | absorb b =>
    rw [exec_absorb, exec_absorb]
    exact hf.guarded_comm _ (fun k s => hf.writeKeys s _) s
  | decrypt c =>
    rw [exec_decrypt, exec_decrypt]
    exact hf.guarded_comm _ (fun k s => by rw [hf.writeKeys, hf.setPhase, hf.emit]) s
  | _ => rfl

theorem Unobserved.perform_comm (hf : Unobserved f) (w : CmdWord) (s : State) :
    perform w (f s) = mapNext f (perform w s) := by
  simp only [perform, hf.refusedMark, hf.exec_comm]
  cases s.refusedMark <;> rfl

theorem Unobserved.readOutput_comm (hf : Unobserved f) (o : OutputPort) (s : State) :
    (f s).readOutput o = f (s.readOutput o) := by
  have hshown : (f s).shown o = s.shown o := by
    cases o <;> simp only [State.shown, hf.key, hf.phase]
  have hfault : (f s).readFault o = s.readFault o := by
    cases o <;> simp only [State.readFault, hf.key, hf.phase]
  rw [State.readOutput, hshown, hfault, hf.noteReads, hf.markFault]
  rfl

theorem Unobserved.handle_comm (hf : Unobserved f) (e : HostEvent) (n : Nat) (s : State) :
    handle e n (f s) = mapNext f (handle e n s) := by
  cases e with
  | command w => exact hf.perform_comm w s
  | lone b =>
    simp only [handle, refusePartial, hf.refusedMark]
    cases s.refusedMark <;> rfl
  | reset => exact congrArg Host.Outcome.next (hf.applyReset s)
  | read o => exact congrArg Host.Outcome.next (hf.readOutput_comm o s)
  | during w as =>
    by_cases hr : .reset ∈ as
    · rw [handle_during_of_reset hr, handle_during_of_reset hr, hf.source, hf.perform_comm, hf.applyReset]
      split <;> simp only [mapNext_mapNext, mapNext_next, hf.applyReset, hf.noteReads]
    · rw [handle_during_of_reads hr, handle_during_of_reads hr, hf.source, hf.perform_comm]
      simp only [mapNext_mapNext, hf.noteReads]

/-- A step commutes with a map that it cannot observe. -/
theorem Unobserved.step_comm (hf : Unobserved f) (s : State) : step (f s) = mapNext f (step s) := by
  cases hi : s.input with
  | nil => rw [step_of_no_input hi, step_of_no_input ((hf.input s).trans hi), mapNext_next]
  | cons e rest =>
    rw [step_of_input hi, step_of_input ((hf.input s).trans hi), hf.draws, hf.accept, hf.handle_comm]

/-- So does a run of any length. -/
theorem Unobserved.run_comm (hf : Unobserved f) (n : Nat) (s : State) : run n (f s) = mapNext f (run n s) := by
  induction n generalizing s with
  | zero => rfl
  | succ n ih =>
    rw [run, run, hf.step_comm]
    cases step s with
    | next t => exact ih t
    | fault r => rfl
    | refused r => rfl

end

/-! ### CRC_IMPL -/

theorem unobserved_withCrcImpl (impl : CrcImpl) : Unobserved (·.withCrcImpl impl) where
  key _ i := by cases i <;> rfl
  phase _ := rfl
  refusedMark _ := rfl
  input _ := rfl
  draws _ := rfl
  source _ := rfl
  writeKeys _ _ := rfl
  setPhase _ _ := rfl
  emit _ _ := rfl
  applyReset _ := rfl
  noteReads _ _ := rfl
  markFault _ _ := rfl
  accept _ _ _ := rfl

theorem withCrcImpl_settle (s : State) (impl : CrcImpl) (n : Nat) (e : HostEvent) :
    (s.withCrcImpl impl).settle n e = (s.settle n e).withCrcImpl impl := by
  unfold State.settle
  split <;> rfl

/-- Settles O57: the step commutes with building the core anew, and so do the marks of a stop. -/
theorem crcImplUnobservable : Obligations.CrcImplUnobservable := by
  intro impl s
  have hstep := (unobserved_withCrcImpl impl).step_comm s
  refine ⟨hstep, ?_⟩
  obtain h | ⟨e, rest, f, hi, hs, h⟩ | ⟨e, rest, r, hi, hs, h⟩ := record_cases s
  · rw [h] at hstep
    exact record_of_next hstep
  · rw [hs] at hstep
    rw [h, record_of_fault (s := s.withCrcImpl impl) hi hstep, ← withCrcImpl_settle]
    rfl
  · rw [hs] at hstep
    rw [h, record_of_refused (s := s.withCrcImpl impl) hi hstep, ← withCrcImpl_settle]
    rfl

/-! ### The past of a core before INIT -/

/-- The state `s` of a run, with the past of the core `base` put before it: what `base` had emitted, given to the host,
recorded and counted, on its own CRC_IMPL. -/
def withPast (base s : State) : State :=
  { s with
    response := base.response ++ s.response
    reads := base.reads ++ s.reads
    faultMark := base.faultMark.or s.faultMark
    position := base.position + s.position
    crcImpl := base.crcImpl }

theorem unobserved_withPast (base : State) : Unobserved (withPast base) where
  key _ i := by cases i <;> rfl
  phase _ := rfl
  refusedMark _ := rfl
  input _ := rfl
  draws _ := rfl
  source _ := rfl
  writeKeys _ _ := rfl
  setPhase _ _ := rfl
  emit _ _ := by simp [withPast, State.emit]
  applyReset _ := rfl
  noteReads _ _ := by simp [withPast, State.noteReads]
  markFault _ _ := by simp [withPast, State.markFault, Option.or_assoc]
  accept _ _ _ := by simp [withPast, State.accept, Nat.add_assoc]

/-- A core just past INIT, with no past but the command itself: the seeds in KEYING. -/
def pastInit (rest : List HostEvent) (draws source : Nat) : State :=
  (({ State.reset with input := rest, position := 1, draws := draws, source := source } : State).writeKeys
    seed).setPhase .keying

/-- INIT leaves a core just past INIT with the old core's past, and nothing of its keys (spec R69, R84). -/
theorem step_of_init {s : State} {rest : List HostEvent} (hm : s.refusedMark = none)
    (hi : s.input = .command 0x0100#16 :: rest) :
    step s = .next (withPast s (pastInit rest s.draws s.source)) := by
  have hdec : decode 0x0100#16 = .init := by decide
  rw [step_of_command hm hi, hdec, exec_init]
  simp [withPast, pastInit, State.writeKeys, State.setPhase, State.reset, hm]

/-- A run from INIT on is the run of a core just past INIT, with the old core's past put before it. -/
theorem run_of_init {s : State} {rest : List HostEvent} (hm : s.refusedMark = none)
    (hi : s.input = .command 0x0100#16 :: rest) (n : Nat) :
    run (n + 1) s = mapNext (withPast s) (run n (pastInit rest s.draws s.source)) := by
  rw [run_succ_of_next (step_of_init hm hi), (unobserved_withPast s).run_comm]

theorem pastInit_inv (rest : List HostEvent) (draws source : Nat) : (pastInit rest draws source).Inv :=
  State.inv_of_holds (k := seed) (p := .keying) ⟨rfl, rfl, rfl⟩ rfl nofun

/-- From a state with the invariant no run stops with a fault. -/
theorem run_ne_fault {s : State} (hs : s.Inv) (n : Nat) (f : Fault) : run n s ≠ .fault f := by
  induction n generalizing s with
  | zero => nofun
  | succ n ih =>
    cases h : step s with
    | next t =>
      rw [run_succ_of_next h]
      exact ih (step_inv hs h)
    | fault g => exact absurd h (step_ne_fault hs g)
    | refused r => simp [run, h]

/-- Settles O51: both runs are the one of a core just past INIT, each with its own past put before it. -/
theorem initForgetsOldKeys : Obligations.InitForgetsOldKeys := by
  intro n a b rest hi hinput hdraws hsource ha hb
  have hra := run_of_init ha hi n
  have hrb := run_of_init hb (hinput.trans hi) n
  rw [hdraws, hsource] at hrb
  rw [hra, hrb]
  cases hd : run n (pastInit rest a.draws a.source) with
  | next d =>
    refine ⟨fun t ht => ?_, nofun, nofun⟩
    cases ht
    exact ⟨withPast b d, d.response, d.reads, rfl, rfl, rfl, rfl, rfl, rfl, rfl, rfl, rfl,
      fun h => congrArg (·.or d.faultMark) h⟩
  | fault f => exact absurd hd (run_ne_fault (pastInit_inv _ _ _) n f)
  | refused r => exact ⟨nofun, fun _ h => h, nofun⟩

end Sys2Proof.Proofs

/-! PROOFS. Systems of cores: each core runs as it does alone, and no two draw from one source (spec 20_memory.md
section 4, 60_exceptions.md section 5). -/

namespace Sys2Proof.Proofs

open Sys2Proof.Machine

/-! ### The parameters of a core -/

theorem step_parameters {s t : State} (h : step s = .next t) : t.crcImpl = s.crcImpl ∧ t.source = s.source := by
  obtain ⟨-, rfl⟩ | ⟨e, rest, -, h⟩ := step_next_cases h
  · exact ⟨rfl, rfl⟩
  · rw [handle_frame h]
    exact ⟨rfl, rfl⟩

theorem record_parameters (s : State) : s.record.crcImpl = s.crcImpl ∧ s.record.source = s.source := by
  obtain h | ⟨e, rest, f, -, -, h⟩ | ⟨e, rest, r, -, -, h⟩ := record_cases s
  · exact step_parameters h
  · rw [h, settle_frame]
    exact ⟨rfl, rfl⟩
  · rw [h, settle_frame]
    exact ⟨rfl, rfl⟩

/-- Settles O58, for a step by its frame, for a stop by what settling leaves alone. -/
theorem parametersNeverChange : Obligations.ParametersNeverChange :=
  fun s => ⟨fun _ => step_parameters, record_parameters s⟩

/-! ### One core of a system -/

theorem stepAt_getElem?_same (sys : System) (j : Nat) :
    (sys.stepAt j).cores[j]? = (sys.cores[j]?).map State.record := by
  simp [System.stepAt]

theorem stepAt_getElem?_of_ne (sys : System) {i j : Nat} (h : i ≠ j) : (sys.stepAt i).cores[j]? = sys.cores[j]? := by
  simp [System.stepAt, h]

theorem stepAt_length (sys : System) (j : Nat) : (sys.stepAt j).cores.length = sys.cores.length :=
  List.length_modify ..

/-- Settles O55: an event modifies the core at its own place. -/
theorem eventTouchesOneInstance : Obligations.EventTouchesOneInstance := by
  refine fun sys i j => ⟨fun h => ⟨stepAt_getElem?_of_ne sys h, ?_⟩, rfl, stepAt_getElem?_same sys j⟩
  rw [System.outcomeAt, stepAt_getElem?_of_ne sys h, System.outcomeAt]

/-! ### Interleavings -/

theorem runSchedule_length (sys : System) (schedule : List Nat) :
    (sys.runSchedule schedule).cores.length = sys.cores.length := by
  induction schedule generalizing sys with
  | nil => rfl
  | cons i js ih => rw [System.runSchedule, ih, stepAt_length]

/-- Each core ends in the record of its own events alone, as many as the schedule has its place. -/
theorem runSchedule_getElem? (sys : System) (schedule : List Nat) (j : Nat) :
    (sys.runSchedule schedule).cores[j]? = (sys.cores[j]?).map (State.record^[schedule.count j]) := by
  induction schedule generalizing sys with
  | nil => simp [System.runSchedule]
  | cons i js ih =>
    rw [System.runSchedule, ih]
    by_cases h : i = j
    · subst h
      rw [stepAt_getElem?_same, Option.map_map, List.count_cons_self, Function.iterate_succ]
    · rw [stepAt_getElem?_of_ne sys h, List.count_cons_of_ne h]

/-- A run that goes through is its own record. -/
theorem iterate_record_of_next {n : Nat} {s t : State} (h : run n s = .next t) : State.record^[n] s = t := by
  induction n generalizing s with
  | zero =>
    cases h
    rfl
  | succ n ih =>
    cases hs : step s with
    | next u =>
      rw [run_succ_of_next hs] at h
      rw [Function.iterate_succ_apply, record_of_next hs, ih h]
    | fault f => simp [run, hs] at h
    | refused r => simp [run, hs] at h

/-- A set refused mark outlives any number of recorded events. -/
theorem iterate_record_refusedMark {s : State} {m : RefusedMark} (hm : s.refusedMark = some m) (n : Nat) :
    (State.record^[n] s).refusedMark = some m :=
  Function.Iterate.rec (fun t : State => t.refusedMark = some m) hm (fun _ h => record_refusedMark h) n

/-- A set fault mark outlives any number of recorded events. -/
theorem iterate_record_faultMark {s : State} {f : Fault} (hf : s.faultMark = some f) (n : Nat) :
    (State.record^[n] s).faultMark = some f :=
  Function.Iterate.rec (fun t : State => t.faultMark = some f) hf (fun _ h => record_faultMark h) n

/-- A refused step leaves a mark with its reason: its own, or the first one, whose reason it then repeats (spec R93). -/
theorem record_reason_of_refused {s : State} {r : Refusal} (h : step s = .refused r) :
    ∃ m, s.record.refusedMark = some m ∧ m.reason = r := by
  cases hi : s.input with
  | nil =>
    rw [step_of_no_input hi] at h
    cases h
  | cons e rest =>
    rw [record_of_refused hi h, settle_frame]
    cases hm : s.refusedMark with
    | none => exact ⟨_, by simp [hm]; rfl, rfl⟩
    | some m =>
      refine ⟨m, by simp [hm], ?_⟩
      rw [step_of_input hi] at h
      obtain ⟨w, hw⟩ | hw := handle_refused_cases h
      · rw [perform_of_marked (s := s.accept e rest) hm] at hw
        exact Host.Outcome.refused.inj hw
      · rw [refusePartial_of_marked (s := s.accept e rest) hm] at hw
        exact Host.Outcome.refused.inj hw

/-- A run that is refused leaves that reason in the mark, however many events follow. -/
theorem iterate_record_of_refused {n : Nat} {s : State} {r : Refusal} (h : run n s = .refused r) :
    ∃ m, (State.record^[n] s).refusedMark = some m ∧ m.reason = r := by
  induction n generalizing s with
  | zero => cases h
  | succ n ih =>
    rw [Function.iterate_succ_apply]
    cases hs : step s with
    | next u =>
      rw [run_succ_of_next hs] at h
      rw [record_of_next hs]
      exact ih h
    | fault f => simp [run, hs] at h
    | refused q =>
      obtain rfl : q = r := by simpa [run, hs] using h
      obtain ⟨m, hm, hq⟩ := record_reason_of_refused hs
      exact ⟨m, iterate_record_refusedMark hm n, hq⟩

theorem record_faultMark_of_fault {s : State} {f : Fault} (h : step s = .fault f) :
    ∃ g, s.record.faultMark = some g := by
  cases hi : s.input with
  | nil =>
    rw [step_of_no_input hi] at h
    cases h
  | cons e rest =>
    rw [record_of_fault hi h, settle_frame]
    cases hf : s.faultMark with
    | none => exact ⟨f, by simp [hf]⟩
    | some g => exact ⟨g, by simp [hf]⟩

/-- A run that faults leaves a fault mark, however many events follow. -/
theorem iterate_record_of_fault {n : Nat} {s : State} {f : Fault} (h : run n s = .fault f) :
    ∃ g, (State.record^[n] s).faultMark = some g := by
  induction n generalizing s with
  | zero => cases h
  | succ n ih =>
    rw [Function.iterate_succ_apply]
    cases hs : step s with
    | next u =>
      rw [run_succ_of_next hs] at h
      rw [record_of_next hs]
      exact ih h
    | fault q =>
      obtain ⟨g, hg⟩ := record_faultMark_of_fault hs
      exact ⟨g, iterate_record_faultMark hg n⟩
    | refused r => simp [run, hs] at h

/-- Settles O52: the core at a place is the record of its own events, which agrees with its own run up to a stop and
keeps the mark of the stop. -/
theorem instancesRunAsAlone : Obligations.InstancesRunAsAlone := by
  intro sys schedule j
  refine ⟨runSchedule_length sys schedule, runSchedule_getElem? sys schedule j, fun s hs => ?_⟩
  have hend : (sys.runSchedule schedule).cores[j]? = some (State.record^[schedule.count j] s) := by
    rw [runSchedule_getElem?, hs, Option.map_some]
  refine ⟨fun t h => ?_, fun r h => ?_, fun f h => ?_⟩
  · rw [hend, iterate_record_of_next h]
  · obtain ⟨m, hm, hr⟩ := iterate_record_of_refused h
    exact ⟨_, m, hend, hm, hr⟩
  · obtain ⟨g, hg⟩ := iterate_record_of_fault h
    exact ⟨_, hend, by rw [hg]; rfl⟩

/-! ### Sources -/

theorem apart_iff (sys : System) : sys.Apart ↔ (sys.cores.map State.source).Pairwise (· ≠ ·) :=
  List.pairwise_map.symm

/-- No interleaving changes the cores' sources. -/
theorem runSchedule_sources (sys : System) (schedule : List Nat) :
    (sys.runSchedule schedule).cores.map State.source = sys.cores.map State.source := by
  apply List.ext_getElem?
  intro j
  have hsource (n : Nat) (s : State) : (State.record^[n] s).source = s.source :=
    Function.Iterate.rec (fun t : State => t.source = s.source) rfl
      (fun t h => (record_parameters t).2.trans h) n
  rw [List.getElem?_map, List.getElem?_map, runSchedule_getElem?, Option.map_map]
  exact congrArg (Option.map · _) (funext (hsource _))

/-- Settles O56: at power-on the sources are 0 to n - 1, and no interleaving changes a source. -/
theorem instancesDrawApart : Obligations.InstancesDrawApart := by
  refine ⟨fun n impl h => ⟨?_, ?_, ?_⟩, fun sys schedule h => ?_⟩
  · simp [System.powerOn]
  · exact List.pairwise_map.2 List.nodup_range
  · intro s hs
    obtain ⟨j, -, rfl⟩ := List.mem_map.1 hs
    rfl
  · rw [apart_iff, runSchedule_sources, ← apart_iff]
    exact h

end Sys2Proof.Proofs

/-! PROOFS. What the assembler rejects, and that it yields no reserved word (spec 30_encoding.md section 4). -/

namespace Sys2Proof.Proofs

open Sys2Proof.Machine

/-! ### An accepted line holds instructions only -/

theorem wf_of_isCommand {i : Instr} (h : i.isCommand = true) : i.wf = true := by
  cases i with
  | init => rfl
  | absorb b => rfl
  | decrypt c => rfl
  | _ => cases h

theorem withImm8_isCommand {op : Byte → Instr} (hop : ∀ b, (op b).isCommand = true) {cs : List Char} {is : List Instr}
    (h : withImm8 op cs = some is) : ∀ i ∈ is, i.isCommand = true := by
  unfold withImm8 at h
  split at h
  · cases h
  · split at h
    · obtain ⟨-, ⟨⟩⟩ := Option.ite_none_right_eq_some.1 h
      simpa using hop _
    · cases h

theorem withBytes_isCommand {expand : List Byte → List Instr} (hex : ∀ bs, ∀ i ∈ expand bs, i.isCommand = true)
    {cs : List Char} {is : List Instr} (h : withBytes expand cs = some is) : ∀ i ∈ is, i.isCommand = true := by
  unfold withBytes at h
  split at h
  · cases h
  · split at h
    · obtain ⟨-, ⟨⟩⟩ := Option.ite_none_right_eq_some.1 h
      exact hex _
    · cases h

theorem openMacro_isCommand (p : List Byte) : ∀ i ∈ openMacro p, i.isCommand = true := by
  simp [openMacro, Instr.isCommand]

theorem decryptChunk_isCommand (c : List Byte) : ∀ i ∈ decryptChunk c, i.isCommand = true := by
  simp [decryptChunk, Instr.isCommand]

/-- Each of the five mnemonics stands for instructions, and a blank or comment line for none. -/
theorem parseStatement_isCommand {cs : List Char} {is : List Instr} (h : parseStatement cs = some is) :
    ∀ i ∈ is, i.isCommand = true := by
  unfold parseStatement at h
  split at h
  · obtain ⟨-, ⟨⟩⟩ := Option.ite_none_right_eq_some.1 h
    simp [Instr.isCommand]
  · exact withImm8_isCommand (fun _ => rfl) h
  · exact withBytes_isCommand decryptChunk_isCommand h
  · exact withImm8_isCommand (fun _ => rfl) h
  · exact withBytes_isCommand openMacro_isCommand h
  · obtain ⟨-, ⟨⟩⟩ := Option.ite_none_right_eq_some.1 h
    simp

/-- The words of an accepted line are those of instructions. -/
theorem assembleLine_isCommand {line : List Char} {ws : List CmdWord} (h : assembleLine line = some ws) :
    ∀ w ∈ ws, (decode w).isCommand = true := by
  unfold assembleLine at h
  split at h
  · rename_i is his
    cases h
    intro w hw
    obtain ⟨i, hi, rfl⟩ := List.mem_map.1 hw
    have hcmd := parseStatement_isCommand his i hi
    rw [decode_encode (wf_of_isCommand hcmd)]
    exact hcmd
  · cases h

/-! ### Lines whose operand is rejected -/

theorem assembleLine_init_operand {c : Char} (hb : isBlank c = false) (hc : c ≠ ';') (more : List Char) :
    assembleLine (['i', 'n', 'i', 't', ' ', c] ++ more) = none := by
  have hspace : isBlank ' ' = true := rfl
  have hend : lineEnds (' ' :: c :: more) = false := by simp [lineEnds, skipBlanks, hspace, hb, hc]
  simp [assembleLine, skipBlanks, isBlank, parseStatement, hend]

theorem assembleLine_absorb_none {rest : List Char} (h : withImm8 .absorb rest = none) :
    assembleLine (['a', 'b', 's', 'o', 'r', 'b'] ++ rest) = none := by
  simp [assembleLine, skipBlanks, isBlank, parseStatement, h]

/-- What follows `decrypt` must not make it the mnemonic `decrypt_chunk`. -/
theorem assembleLine_decrypt_none {rest : List Char} (hne : rest.head? ≠ some '_') (h : withImm8 .decrypt rest = none) :
    assembleLine (['d', 'e', 'c', 'r', 'y', 'p', 't'] ++ rest) = none := by
  cases rest with
  | nil => rfl
  | cons c cs =>
    have hc : c ≠ '_' := by simpa using hne
    simp [assembleLine, skipBlanks, isBlank, parseStatement, hc, h]

/-- An end of line is no operand. -/
theorem withImm8_of_comment (op : Byte → Instr) {tail : List Char}
    (h : tail = [] ∨ (∃ comment, tail = ';' :: comment) ∨ ∃ comment, tail = ' ' :: ';' :: comment) :
    withImm8 op tail = none := by
  obtain rfl | ⟨comment, rfl⟩ | ⟨comment, rfl⟩ := h <;> rfl

theorem isBlank_of_isDigit {c : Char} (h : c.isDigit = true) : isBlank c = false := by
  by_contra hb
  obtain rfl | rfl : c = ' ' ∨ c = '\t' := by simpa [isBlank, or_iff_not_imp_left] using hb
  all_goals exact absurd h (by decide)

/-- A decimal literal over 255 is no operand (spec R59). -/
theorem imm8_of_large_decimal {ds : List Char} (hds : ∀ c ∈ ds, c.isDigit = true)
    (hval : 255 < Nat.ofDigitChars 10 ds 0) : imm8 ds = none := by
  cases ds with
  | nil => rfl
  | cons d ds =>
    rw [List.forall_mem_cons] at hds
    obtain ⟨hd, hds⟩ := hds
    have hread := decimal_append (tail := []) rfl ds hds (d.toNat - '0'.toNat)
    have hx := ne_x_of_mem_head (tail := []) rfl hds
    rw [List.append_nil] at hread hx
    rw [Nat.ofDigitChars_cons, Nat.mul_zero, Nat.zero_add] at hval
    rw [imm8_of_isDigit hd hx]
    simp only [decimalByte, decDigit_of_isDigit hd, hread, if_neg (Nat.not_le.2 hval)]

theorem withImm8_of_large_decimal (op : Byte → Instr) {ds : List Char} (hds : ∀ c ∈ ds, c.isDigit = true)
    (hval : 255 < Nat.ofDigitChars 10 ds 0) : withImm8 op (' ' :: ds) = none := by
  have hskip : skipBlanks ds = ds := by
    cases ds with
    | nil => rfl
    | cons d ds => simp [skipBlanks, isBlank_of_isDigit (hds d (by simp))]
  simp [withImm8, operandText, isBlank, hskip, imm8_of_large_decimal hds hval]

/-- A hexadecimal digit ends no line. -/
theorem lineEnds_of_hexDigit {d : Char} (h : (hexDigit d).isSome = true) (more : List Char) :
    lineEnds (d :: more) = false := by
  by_contra hend
  obtain rfl | rfl | rfl := head_of_lineEnds (Bool.not_eq_false _ ▸ hend) <;> exact absurd h (by decide)

/-- A third hexadecimal digit leaves something of the line unread. -/
theorem withImm8_of_long_hex (op : Byte → Instr) (h l : Char) {d : Char} (hd : (hexDigit d).isSome = true)
    (more : List Char) : withImm8 op (' ' :: '0' :: 'x' :: h :: l :: d :: more) = none := by
  have hend := lineEnds_of_hexDigit hd more
  cases hh : hexDigit h <;> cases hl : hexDigit l <;>
    simp [withImm8, operandText, skipBlanks, isBlank, imm8, hh, hl, hend]

/-! ### The statement -/

/-- The statement's value of a string of decimal digits is the library's. -/
theorem foldl_digits_eq (ds : List Char) :
    ds.foldl (fun n c => n * 10 + (c.toNat - '0'.toNat)) 0 = Nat.ofDigitChars 10 ds 0 := by
  simp only [Nat.ofDigitChars, Nat.mul_comm]

/-- Settles O54: accepted lines hold instructions; the rejected ones by what their operand reads as. -/
theorem assemblerRejects : Obligations.AssemblerRejects := by
  refine ⟨fun _ _ => assembleLine_isCommand, fun c more hb hc => assembleLine_init_operand hb hc more,
    fun tail ht => ⟨assembleLine_absorb_none (withImm8_of_comment _ ht), assembleLine_decrypt_none ?_
      (withImm8_of_comment _ ht)⟩, fun ds _ hds hval => ?_, fun h l d more hd => ?_⟩
  · obtain rfl | ⟨comment, rfl⟩ | ⟨comment, rfl⟩ := ht <;> simp
  · have hdigit : ∀ c ∈ ds, c.isDigit = true := fun c hc => Char.isDigit_iff_toNat.2 (hds c hc)
    rw [foldl_digits_eq] at hval
    exact ⟨assembleLine_absorb_none (withImm8_of_large_decimal _ hdigit hval),
      assembleLine_decrypt_none (rest := ' ' :: ds) (by simp) (withImm8_of_large_decimal _ hdigit hval)⟩
  · exact ⟨assembleLine_absorb_none (withImm8_of_long_hex _ h l hd more),
      assembleLine_decrypt_none (rest := ' ' :: '0' :: 'x' :: h :: l :: d :: more) (by simp)
        (withImm8_of_long_hex _ h l hd more)⟩

end Sys2Proof.Proofs
